-- ==== Sys2Proof/Word.lean ====
section
/-! DEFINITION. The words of the block (00_scope.md R7): all unsigned, bit 0 least significant. -/

namespace Sys2Proof

/-- A 32-bit word: `arg`, `resp_data`, STATUS and FSTATUS (R45, R46, R86, R88). Time values and the frame-timeout
counter have widths of their own, in Config. -/
abbrev Word := BitVec 32

/-- One byte: a frame buffer byte, the accumulator, a byte operand (R40, R60, R87). -/
abbrev Byte := BitVec 8

/-- One command word `cmd[39:0]` (30_encoding.md R86). -/
abbrev CmdWord := BitVec 40

end Sys2Proof
end

