-- ==== Sys2Proof/Syntax.lean ====
section
/-! DEFINITION. The instructions: one constructor per row of spec/opcode_table.json, that is the 21 commands of
30_encoding.md R90 and the three wire patterns of R82, R83, R85. Operands that are bits or bytes are Bools and bit
vectors; operands that are counts, indices or tick counts are numbers, whose ranges (R87, R93) WellFormed checks. -/

namespace Sys2Proof

/-- One instruction of the block. -/
inductive Instr where
  /-- NOP (R160). -/
  | nop
  /-- SENDBIT b (R161). -/
  | sendbit (b : Bool)
  /-- SENDBYTE v (R162). -/
  | sendbyte (v : Byte)
  /-- HASDATA n (R163). -/
  | hasdata (n : Nat)
  /-- RECVBIT (R164). -/
  | recvbit
  /-- RECVBYTE (R165). -/
  | recvbyte
  /-- PULSE dur, final (R169). -/
  | pulse (dur : Nat) (final : Bool)
  /-- SETINIT b (R166). -/
  | setinit (b : Bool)
  /-- SETIDLE t (R167). -/
  | setidle (t : Nat)
  /-- HSCLR (R168). -/
  | hsclr
  /-- BEGIN len (R200). -/
  | begin_ (len : Nat)
  /-- SENDSF v (R201). -/
  | sendsf (v : Byte)
  /-- FCOMPLETE (R202). -/
  | fcomplete
  /-- GETFRAME (R203). -/
  | getframe
  /-- RESETFRAME (R204). -/
  | resetframe
  /-- FBREAD idx (R205). -/
  | fbread (idx : Nat)
  /-- FTODET (R206). -/
  | ftodet
  /-- FTOCNT (R207). -/
  | ftocnt
  /-- FTORESET (R208). -/
  | ftoreset
  /-- STATUS (R170). -/
  | status
  /-- FSTATUS (R171). -/
  | fstatus
  /-- The wire pattern SUBFRAME (R82): a start bit 1, then the byte, most significant bit first. -/
  | subframe (d : Byte)
  /-- The wire pattern SYNCBIT (R83): a single 0 bit outside a sub-frame. -/
  | syncbit
  /-- The wire pattern RAWBYTE (R85): a byte without a start bit, most significant bit first. -/
  | rawbyte (d : Byte)
  deriving DecidableEq, Repr

end Sys2Proof
end

