-- ==== Sys2Proof/WellFormed.lean ====
section
/-! DEFINITION. Which instructions have an encoding: every numeric operand fits its field (30_encoding.md R87, R93). -/

namespace Sys2Proof

/-- `i` fits its encoding. An operand that is well formed but out of range for the command (BEGIN 0, FBREAD beyond
the frame) is NOT ill formed: it answers BADARG (R91). -/
def Instr.wf : Instr → Bool
  | .hasdata n => decide (n < 2 ^ 8)
  | .pulse dur _ => decide (dur < 2 ^ 31)
  | .setidle t => decide (t < 2 ^ 32)
  | .begin_ len => decide (len < 2 ^ 16)
  | .fbread idx => decide (idx < 2 ^ 16)
  | .nop | .sendbit _ | .sendbyte _ | .recvbit | .recvbyte | .setinit _ | .hsclr | .sendsf _ | .fcomplete
  | .getframe | .resetframe | .ftodet | .ftocnt | .ftoreset | .status | .fstatus | .subframe _ | .syncbit
  | .rawbyte _ => true

end Sys2Proof
end

