-- ==== Sys2Proof/Decode.lean ====
section
/-! DEFINITION. Decoding and encoding (30_encoding.md R82 to R91): command words and wire patterns to instructions,
rejecting by name, and back. A command word is one parallel 40-bit word (R65, R86), never a sequence of bytes; a wire
pattern is a sequence of bits in wire order. -/

namespace Sys2Proof

/-- Why a code is no instruction. -/
inductive Reject where
  /-- `op` is none of the 21 opcodes of R90 (R91, V3). The block answers ILLEGAL. -/
  | unknownOpcode (op : BitVec 8)
  /-- A bit of `arg` that R87 reserves for the format of `op` is 1 (R91, V4). The block answers ILLEGAL. -/
  | reservedBits (op : BitVec 8) (arg : Word)
  /-- A sequence of bits that is none of the three wire patterns. It is still a legal inbound stream (R92). -/
  | noWirePattern (bits : List Bool)
  deriving DecidableEq, Repr

/-- The two kinds of encoding of 30_encoding.md: a host command word, or bits on a line, first bit first. -/
inductive Code where
  | command (w : CmdWord)
  | wire (bits : List Bool)
  deriving DecidableEq, Repr

/-- `op = cmd[39:32]` (R86). -/
def opField (w : CmdWord) : BitVec 8 := w.extractLsb' 32 8

/-- `arg = cmd[31:0]` (R86). -/
def argField (w : CmdWord) : Word := w.extractLsb' 0 32

/-- The word with the two fields of R86. -/
def commandWord (op : BitVec 8) (arg : Word) : CmdWord := op ++ arg

/-- The bits of a byte, most significant first (20_memory.md R64, 30_encoding.md R85). -/
def byteBits (v : Byte) : List Bool :=
  [v.getLsbD 7, v.getLsbD 6, v.getLsbD 5, v.getLsbD 4, v.getLsbD 3, v.getLsbD 2, v.getLsbD 1, v.getLsbD 0]

/-- The byte whose bits arrive in this order, the first in the most significant place: `v <- (v, b)[7:0]` for each bit
(R64, R165). -/
def bitsByte (bits : List Bool) : Byte :=
  bits.foldl (fun v b => (v.setWidth 7 ++ BitVec.ofBool b : BitVec 8)) 0

/-- Format N: no operand, `arg[31:0]` reserved (R87). -/
def formatN (op : BitVec 8) (arg : Word) (i : Instr) : Except Reject Instr :=
  if arg = 0 then .ok i else .error (.reservedBits op arg)

/-- Format B: `arg[0]`, the rest reserved (R87). -/
def formatB (op : BitVec 8) (arg : Word) (i : Bool → Instr) : Except Reject Instr :=
  if arg.extractLsb' 1 31 = 0 then .ok (i (arg.getLsbD 0)) else .error (.reservedBits op arg)

/-- Format Y: `arg[7:0]`, the rest reserved (R87). -/
def formatY (op : BitVec 8) (arg : Word) (i : Byte → Instr) : Except Reject Instr :=
  if arg.extractLsb' 8 24 = 0 then .ok (i (arg.extractLsb' 0 8)) else .error (.reservedBits op arg)

/-- Format T: `arg[31:0]`, nothing reserved (R87). -/
def formatT (arg : Word) (i : Nat → Instr) : Except Reject Instr := .ok (i arg.toNat)

/-- Format P: `final = arg[31]`, `dur = arg[30:0]`, nothing reserved (R87). -/
def formatP (arg : Word) (i : Nat → Bool → Instr) : Except Reject Instr :=
  .ok (i (arg.extractLsb' 0 31).toNat (arg.getLsbD 31))

/-- Format L: `arg[15:0]`, the rest reserved (R87). -/
def formatL (op : BitVec 8) (arg : Word) (i : Nat → Instr) : Except Reject Instr :=
  if arg.extractLsb' 16 16 = 0 then .ok (i (arg.extractLsb' 0 16).toNat) else .error (.reservedBits op arg)

/-- The opcode map of R90 with the operand formats of R87; every other word is illegal, by name (R91). -/
def decodeCommand (w : CmdWord) : Except Reject Instr :=
  let op := opField w
  let arg := argField w
  match op with
  | 0x00#8 => formatN op arg .nop
  | 0x10#8 => formatB op arg .sendbit
  | 0x11#8 => formatY op arg .sendbyte
  | 0x12#8 => formatY op arg fun v => .hasdata v.toNat
  | 0x13#8 => formatN op arg .recvbit
  | 0x14#8 => formatN op arg .recvbyte
  | 0x15#8 => formatP arg .pulse
  | 0x16#8 => formatB op arg .setinit
  | 0x17#8 => formatT arg .setidle
  | 0x18#8 => formatN op arg .hsclr
  | 0x20#8 => formatL op arg .begin_
  | 0x21#8 => formatY op arg .sendsf
  | 0x22#8 => formatN op arg .fcomplete
  | 0x23#8 => formatN op arg .getframe
  | 0x24#8 => formatN op arg .resetframe
  | 0x25#8 => formatL op arg .fbread
  | 0x26#8 => formatN op arg .ftodet
  | 0x27#8 => formatN op arg .ftocnt
  | 0x28#8 => formatN op arg .ftoreset
  | 0x30#8 => formatN op arg .status
  | 0x31#8 => formatN op arg .fstatus
  | _ => .error (.unknownOpcode op)

/-- The wire patterns: `0` is a synchronization bit (R83), `1 d7 .. d0` a sub-frame (R82), eight bits a raw byte
(R85). -/
def decodeWire (bits : List Bool) : Except Reject Instr :=
  match bits with
  | [false] => .ok .syncbit
  | [true, d7, d6, d5, d4, d3, d2, d1, d0] => .ok (.subframe (bitsByte [d7, d6, d5, d4, d3, d2, d1, d0]))
  | [d7, d6, d5, d4, d3, d2, d1, d0] => .ok (.rawbyte (bitsByte [d7, d6, d5, d4, d3, d2, d1, d0]))
  | _ => .error (.noWirePattern bits)

/-- Decode either kind of code. -/
def decode : Code → Except Reject Instr
  | .command w => decodeCommand w
  | .wire bits => decodeWire bits

/-- The code of an instruction: `cmd = (op, arg)` with `arg` assembled per R87 (R90, R93), or the bits of the wire
pattern in wire order (R82, R83, R85). -/
def encode : Instr → Code
  | .nop => .command (commandWord 0x00#8 0)
  | .sendbit b => .command (commandWord 0x10#8 ((BitVec.ofBool b).setWidth 32))
  | .sendbyte v => .command (commandWord 0x11#8 (v.setWidth 32))
  | .hasdata n => .command (commandWord 0x12#8 (BitVec.ofNat 32 n))
  | .recvbit => .command (commandWord 0x13#8 0)
  | .recvbyte => .command (commandWord 0x14#8 0)
  | .pulse dur final => .command (commandWord 0x15#8 (BitVec.ofBool final ++ BitVec.ofNat 31 dur))
  | .setinit b => .command (commandWord 0x16#8 ((BitVec.ofBool b).setWidth 32))
  | .setidle t => .command (commandWord 0x17#8 (BitVec.ofNat 32 t))
  | .hsclr => .command (commandWord 0x18#8 0)
  | .begin_ len => .command (commandWord 0x20#8 (BitVec.ofNat 32 len))
  | .sendsf v => .command (commandWord 0x21#8 (v.setWidth 32))
  | .fcomplete => .command (commandWord 0x22#8 0)
  | .getframe => .command (commandWord 0x23#8 0)
  | .resetframe => .command (commandWord 0x24#8 0)
  | .fbread idx => .command (commandWord 0x25#8 (BitVec.ofNat 32 idx))
  | .ftodet => .command (commandWord 0x26#8 0)
  | .ftocnt => .command (commandWord 0x27#8 0)
  | .ftoreset => .command (commandWord 0x28#8 0)
  | .status => .command (commandWord 0x30#8 0)
  | .fstatus => .command (commandWord 0x31#8 0)
  | .subframe d => .wire (true :: byteBits d)
  | .syncbit => .wire [false]
  | .rawbyte d => .wire (byteBits d)

/-- Bit `n-1` of `w` first, bit 0 last: a pattern string of spec/opcode_table.json (first bit sent leftmost, R82) read
as a number with bit 0 its rightmost bit. -/
def numberBits (n w : Nat) : List Bool :=
  match n with
  | 0 => []
  | k + 1 => w.testBit k :: numberBits k w

/-- The code that `nbits` bits of opcode_table.json's numbering stand for: 40 bits are a command word, 9 (16 in whole
bytes) the sub-frame pattern, 8 a raw byte, 1 the synchronization bit. In whole bytes the one-bit row SYNCBIT has 8
bits too: the number 0 is read as SYNCBIT, every other as RAWBYTE. Log 11. -/
def tableCode (nbits w : Nat) : Option Code :=
  match nbits with
  | 40 => if w < 2 ^ 40 then some (.command (BitVec.ofNat 40 w)) else none
  | 16 => if w < 2 ^ 9 then some (.wire (numberBits 9 w)) else none
  | 9 => if w < 2 ^ 9 then some (.wire (numberBits 9 w)) else none
  | 8 => if w = 0 then some (.wire [false]) else if w < 2 ^ 8 then some (.wire (numberBits 8 w)) else none
  | 1 => if w < 2 ^ 1 then some (.wire (numberBits 1 w)) else none
  | _ => none

/-- The instruction this decoder reads from an instruction whose bits are `w`, numbered as spec/opcode_table.json
numbers them. -/
def decodeTableWord (nbits w : Nat) : Option Instr :=
  match tableCode nbits w with
  | some c =>
    match decode c with
    | .ok i => some i
    | .error _ => none
  | none => none

end Sys2Proof
end

