-- ==== Sys2Proof/Config.lean ====
section
/-! DEFINITION. What an instance of the block fixes (00_scope.md R5), and the values the spec leaves free. -/

namespace Sys2Proof

namespace Config

/-- `FIFO_CAP`, bits per BitFifo (R5). -/
abbrev fifoCap : Nat := 64

/-- `W_T`, the width of every time value (R5). -/
abbrev timeWidth : Nat := 32

/-- `FTO_W`, the width of the frame-timeout counter (R5). -/
abbrev ftoWidth : Nat := 32

/-- `FB_MAX`, bytes of frame buffer memory (R5). -/
def fbMax : Nat := 256

end Config

/-- A `W_T`-bit time value, in ticks (R5, R7). -/
abbrev Time := BitVec Config.timeWidth

/-- A value of the frame-timeout counter, `FTO_W` bits (R5, R42). -/
abbrev FtoCount := BitVec Config.ftoWidth

/-- The parameters of R5 that one instance fixes and another may choose differently. The four timing constants
are "fixed at construction" (R37): no rule writes a `Params`. Two peers carry two of them (R5, R238). -/
structure Params where
  /-- `WRITE_PULSE`, ticks of the leading high pulse. -/
  writePulse : Time
  /-- `READ_DELAY`, ticks from a consumed edge to the sample. -/
  readDelay : Time
  /-- `WRITE_DELAY`, ticks from the consumed ack edge to the release. -/
  writeDelay : Time
  /-- `HS_TIMEOUT`, ticks of the acknowledge wait when it is enforced. -/
  hsTimeout : Time
  /-- `HS_ENFORCE`; false is the reference behaviour. -/
  hsEnforce : Bool
  /-- `CAN_INIT_RESET`, the reset value of `can_init`. -/
  canInitReset : Bool
  /-- `IDLE_TO_RESET`, the reset value of `idle_to`. -/
  idleToReset : Time
  deriving DecidableEq, Repr

/-- The legal ranges of R5: `WRITE_PULSE` in 1 .. 2^31-1, the three delays in 0 .. 2^31-1. -/
def Params.legal (p : Params) : Bool :=
  decide (1 ≤ p.writePulse.toNat) && decide (p.writePulse.toNat < 2 ^ 31) && decide (p.readDelay.toNat < 2 ^ 31)
    && decide (p.writeDelay.toNat < 2 ^ 31) && decide (p.hsTimeout.toNat < 2 ^ 31)

namespace Config

/-- OPEN (R5): `WRITE_PULSE` is drawn from 31 bits; see `params`. Log 7. -/
opaque writePulseBits : BitVec 31
/-- OPEN (R5): `READ_DELAY`, any of 0 .. 2^31-1. Log 7. -/
opaque readDelayBits : BitVec 31
/-- OPEN (R5): `WRITE_DELAY`, any of 0 .. 2^31-1. Log 7. -/
opaque writeDelayBits : BitVec 31
/-- OPEN (R5): `HS_TIMEOUT`, any of 0 .. 2^31-1. Log 7. -/
opaque hsTimeoutBits : BitVec 31
/-- `HS_ENFORCE`, either value (92_eei_decisions.md, open parameters). Log 7. -/
opaque hsEnforce : Bool
/-- OPEN (R5): `CAN_INIT_RESET`, either value. Log 7. -/
opaque canInitReset : Bool
/-- OPEN (R5): `IDLE_TO_RESET`, any time value. Log 7. -/
opaque idleToReset : Time

/-- The parameters of the instance `Sys2Proof.core` models: every legal set of R5 and no other, since the 31-bit
value 0 of `WRITE_PULSE` is excluded (V9: refuse the configuration). Log 7. -/
def params : Params :=
  { writePulse := if writePulseBits = 0 then 1 else writePulseBits.setWidth timeWidth
    readDelay := readDelayBits.setWidth timeWidth
    writeDelay := writeDelayBits.setWidth timeWidth
    hsTimeout := hsTimeoutBits.setWidth timeWidth
    hsEnforce := hsEnforce
    canInitReset := canInitReset
    idleToReset := idleToReset }

/-- FREE VALUE (V1): what byte `a` of the frame buffer with power-on contents number `n` reads as until rule R186 writes
it. The same at every read, and no reset changes it (R101). Two instances with different numbers share no byte. Log 6. -/
opaque powerOnByte : (n a : Nat) → Byte

/-- FREE VALUE (R6, R47): `rst` of the tick with environment index `n`. Log 2. -/
opaque freeRst : Nat → Bool
/-- FREE VALUE (R6, R47): `rx` of the tick with environment index `n`. Log 2. -/
opaque freeRx : Nat → Bool
/-- FREE VALUE (R6, R47): `cmd_valid` of the tick with environment index `n`. Log 2. -/
opaque freeCmdValid : Nat → Bool
/-- FREE VALUE (R6, R47): `cmd` of the tick with environment index `n`. Log 2. -/
opaque freeCmd : Nat → CmdWord

end Config

end Sys2Proof
end

