-- ==== Sys2Proof/Machine/State.lean ====
section
/-! DEFINITION. The state of one instance (10_state.md R20) as plain data, its faults and refusals, and the state
after reset (R101, R251). Fields that are the model's own and not the spec's are grouped last and say so. -/

namespace Sys2Proof.Machine

/-- Why a step stops with a fault. The block itself has no trap (60_exceptions.md R220). -/
inductive Fault where
  /-- The codec's store (R186) or FBREAD (R205) names a frame buffer index at or above `FB_MAX`, a byte that does not
  exist (R60, R61). SAFE: it needs a state that violates R49 (b), where the spec asks for no step (V8, R110). Log 8. -/
  | noSuchByte
  deriving DecidableEq, Repr

/-- Why an instruction has no meaning. -/
inductive Refusal where
  /-- Raised by an arm of `exec` whose instruction has no meaning yet. No arm raises it: every instruction is
  modelled. SAFE: the model stops where the hardware goes on. -/
  | notModelled (mnemonic : String)
  deriving DecidableEq, Repr

/-- `ch_state` (R24): 0 Idle, 1 AwaitingSampleDelay, 2 AwaitingPeerAck, 3 AwaitingHoldTime. -/
inductive ChState where
  | idle
  | awaitSample
  | awaitAck
  | awaitHold
  deriving DecidableEq, Repr

/-- `fc_state` (R25): 0 WaitFrameStart, 1 WaitFrameData, 2 FrameEnd. The value 3 is unreachable and not represented
(V7). Log 9. -/
inductive FcState where
  | waitFrameStart
  | waitFrameData
  | frameEnd
  deriving DecidableEq, Repr

/-- The response codes of R89; 6 and 7 are never produced (V5) and not represented. Log 9. -/
inductive RespCode where
  | ok
  | full
  | empty
  | busy
  | badarg
  | illegal
  deriving DecidableEq, Repr

/-- One BitFifo (R21 to R23): FIFO_CAP one-bit slots, the index of the oldest queued bit, the occupancy. -/
structure BitFifo where
  /-- `F.mem[0..FIFO_CAP-1]` (R21). -/
  mem : Vector Bool Config.fifoCap
  /-- `F.rd` (R22). -/
  rd : BitVec 6
  /-- `F.cnt` (R23). -/
  cnt : BitVec 7
  deriving DecidableEq, Repr

/-- The frame buffer (R43, R60): a cell for each byte that has been written since power-on, addresses strictly
rising. An unlisted address reads as NO VALUE (`Memory.read`); FBREAD gives such a byte the free value
`Config.powerOnByte`. Log 6. -/
abbrev Memory := List Host.Cell

/-- The inputs of one tick (R47): free at every tick, `cmd` meaningful only when `cmd_valid` is 1. -/
structure TickInput where
  rst : Bool
  rx : Bool
  cmdValid : Bool
  cmd : CmdWord
  deriving DecidableEq, Repr

/-- What a step can be given: the inputs of a tick, or a wire pattern for the receive side (the model's own form of
running one row of the opcode table that is no command; log 1). -/
inductive Input where
  | tick (i : TickInput)
  | wire (bits : List Bool)
  deriving DecidableEq, Repr

/-- The complete state of one instance (R20), field by field, then the model's own fields. -/
structure State where
  /-- `ib`, the inbound queue (R21 to R23). -/
  ib : BitFifo
  /-- `ob`, the outbound queue (R21 to R23). -/
  ob : BitFifo
  /-- `ch_state` (R24). -/
  chState : ChState
  /-- `self_init` (R26). -/
  selfInit : Bool
  /-- `frame_end` (R27). -/
  frameEnd : Bool
  /-- `edge_flag` (R28). -/
  edgeFlag : Bool
  /-- `hs_err` (R29). -/
  hsErr : Bool
  /-- `t_last` (R31). -/
  tLast : Time
  /-- `rx_q` (R32). -/
  rxQ : Bool
  /-- `tx` (R33). -/
  tx : Bool
  /-- `pulse_cnt` (R34). -/
  pulseCnt : Time
  /-- `pulse_final` (R34). -/
  pulseFinal : Bool
  /-- `can_init` (R35). -/
  canInit : Bool
  /-- `idle_to` (R36). -/
  idleTo : Time
  /-- `fc_en` (R38). -/
  fcEn : Bool
  /-- `fc_state` (R25). -/
  fcState : FcState
  /-- `fb_len` (R39). -/
  fbLen : BitVec 9
  /-- `fb_idx` (R39). -/
  fbIdx : BitVec 9
  /-- `in_sub` (R30). -/
  inSub : Bool
  /-- `acc` (R40). -/
  acc : Byte
  /-- `bitcnt` (R41). -/
  bitcnt : BitVec 4
  /-- `fto_cnt` (R42). -/
  ftoCnt : FtoCount
  /-- `fb[0..FB_MAX-1]` (R43). -/
  fb : Memory
  /-- `now` (R44). -/
  now : Time
  /-- MODEL'S OWN: which power-on contents this instance's `fb` has, the first argument of `Config.powerOnByte` (V1).
  Nothing writes it. Log 6. -/
  fbPower : Nat
  /-- MODEL'S OWN: this tick's `pulse_busy` (R102), latched by phase 2. Log 4. -/
  pulseBusy : Bool
  /-- MODEL'S OWN: the output `resp_code` as the last tick drove it (R47, R88). Log 3. -/
  respCode : RespCode
  /-- MODEL'S OWN: the output `resp_data` as the last tick drove it (R47, R88). Log 3. -/
  respData : Word
  /-- MODEL'S OWN: the inputs already given for the coming steps, next first. Log 2. -/
  inputs : List Input
  /-- MODEL'S OWN: how many ticks took their inputs from the free environment. Log 2. -/
  envIdx : Nat
  deriving DecidableEq, Repr

namespace State

/-- The reset values of R20 and R251 for an instance with parameters `p`. What R20 leaves unspecified is: FIFO slots 0
(log 5), no byte of `fb` written, power-on contents number 0 (log 6). -/
def resetWith (p : Params) : State :=
  { ib := { mem := Vector.replicate Config.fifoCap false, rd := 0, cnt := 0 }
    ob := { mem := Vector.replicate Config.fifoCap false, rd := 0, cnt := 0 }
    chState := .idle
    selfInit := false
    frameEnd := false
    edgeFlag := false
    hsErr := false
    tLast := 0
    rxQ := true
    tx := false
    pulseCnt := 0
    pulseFinal := false
    canInit := p.canInitReset
    idleTo := p.idleToReset
    fcEn := false
    fcState := .waitFrameStart
    fbLen := 0
    fbIdx := 0
    inSub := false
    acc := 0
    bitcnt := 0
    ftoCnt := 0
    fb := []
    now := 0
    fbPower := 0
    pulseBusy := false
    respCode := .ok
    respData := 0
    inputs := []
    envIdx := 0 }

/-- The machine right after reset (R250, R251): the reset values of R20 for the instance's parameters. -/
def reset : State := resetWith Config.params

end State

end Sys2Proof.Machine
end

