-- ==== Sys2Proof/Machine/Ops.lean ====
section
/-! DEFINITION. The named operations over queues, memory, lines and the response: BitFifo (41_bitfifo.md), the frame
buffer (20_memory.md R60), the pulse (R132), time (R111) and the response (R88). The block has no exception to take and
none to return from (60_exceptions.md R220, R232, R233); the one shared way to report an error is `respond`. -/

namespace Sys2Proof.Machine

/-- Go on with `k` if `o` is a next state; a fault or a refusal stands. -/
def andThen (o : Host.Outcome State Fault Refusal) (k : State → Host.Outcome State Fault Refusal) :
    Host.Outcome State Fault Refusal :=
  match o with
  | .next s => k s
  | .fault f => .fault f
  | .refused r => .refused r

/-! ## BitFifo -/

/-- The slot of the bit that is `i` places behind the oldest: `(F.rd + i) mod FIFO_CAP` (R21). -/
def BitFifo.slot (f : BitFifo) (i : Nat) : Fin Config.fifoCap :=
  ⟨(f.rd.toNat + i) % Config.fifoCap, Nat.mod_lt _ (by decide)⟩

/-- The queued bits, oldest first (R21): `F.mem[(F.rd + i) mod FIFO_CAP]` for `i` below `F.cnt`. -/
def BitFifo.contents (f : BitFifo) : List Bool := (List.range f.cnt.toNat).map fun i => f.mem[f.slot i]

/-- `isEmpty(F)` (R123). -/
def BitFifo.isEmpty (f : BitFifo) : Bool := decide (f.cnt.toNat = 0)

/-- `isFull(F)` (R124). -/
def BitFifo.isFull (f : BitFifo) : Bool := decide (f.cnt.toNat = Config.fifoCap)

/-- `size(F)` (R125). -/
def BitFifo.size (f : BitFifo) : Nat := f.cnt.toNat

/-- `push(F, b)` (R121): the queue after it, and whether the bit was enqueued. -/
def BitFifo.push (f : BitFifo) (b : Bool) : BitFifo × Bool :=
  if f.isFull then (f, false)
  else ({ f with mem := f.mem.set (f.slot f.cnt.toNat) b, cnt := f.cnt + 1 }, true)

/-- `pull(F)` (R122): the bit, or none for EMPTY_IND, and the queue after it. -/
def BitFifo.pull (f : BitFifo) : Option Bool × BitFifo :=
  if f.isEmpty then (none, f)
  else (some f.mem[f.slot 0], { f with rd := f.rd + 1, cnt := f.cnt - 1 })

/-- `push_seq(F, bits)` (R127): every bit in order, true iff all were enqueued. -/
def BitFifo.pushSeq (f : BitFifo) : List Bool → BitFifo × Bool
  | [] => (f, true)
  | b :: bits =>
    let one := f.push b
    let rest := one.1.pushSeq bits
    (rest.1, one.2 && rest.2)

/-- `n` pulls in a row (R165): the bits obtained, first pulled first, and the queue after them. A failed pull gives no
bit (R122). -/
def BitFifo.pullSeq (f : BitFifo) : Nat → List Bool × BitFifo
  | 0 => ([], f)
  | n + 1 =>
    match f.pull with
    | (some b, g) =>
      let rest := g.pullSeq n
      (b :: rest.1, rest.2)
    | (none, g) => g.pullSeq n

/-! ## The frame buffer -/

/-- The byte written last at `a`, none if no write has reached it since power-on. -/
def Memory.read : Memory → Nat → Option Byte
  | [], _ => none
  | (k, v) :: m, a => if k = a then some v else Memory.read m a

/-- What the byte `a` of a frame buffer with power-on contents number `n` reads as (R43, V1): the value written last,
else its power-on value, which is free but the same at every read. Log 6. -/
def Memory.byte (n : Nat) (m : Memory) (a : Nat) : Byte :=
  match Memory.read m a with
  | some v => v
  | none => Config.powerOnByte n a

/-- `fb[a]` (R8, R60) as this instance reads it. -/
def State.fbByte (s : State) (a : Nat) : Byte := Memory.byte s.fbPower s.fb a

/-- `fb[a] <- v` (R8, R60), keeping the addresses strictly rising. -/
def Memory.write : Memory → Nat → Byte → Memory
  | [], a, v => [(a, v)]
  | (k, w) :: m, a, v =>
    if a < k then (a, v) :: (k, w) :: m
    else if a = k then (a, v) :: m
    else (k, w) :: Memory.write m a v

/-- The canonical form: addresses strictly rising. An unlisted address reads as no value, so every listed byte is
needed. -/
def Memory.rising : Memory → Bool
  | [] => true
  | [_] => true
  | (a, _) :: (b, w) :: m => decide (a < b) && Memory.rising ((b, w) :: m)

/-- The canonical form within the frame buffer's index space 0 .. FB_MAX-1 (R60, R61). -/
def Memory.wf (m : Memory) : Bool := Memory.rising m && m.all fun c => decide (c.1 < Config.fbMax)

/-! ## Time, the line, the response -/

/-- `elapsed() = (now - t_last) mod 2^W_T` (R9, R111). -/
def elapsed (s : State) : Time := s.now - s.tLast

/-- A timed condition, `elapsed() >= k` (R111, R134). -/
def elapsedAtLeast (k : Time) (s : State) : Bool := decide (k.toNat ≤ (elapsed s).toNat)

/-- `sat_inc(c, W)` (R9). -/
def satInc {w : Nat} (c : BitVec w) : BitVec w := if c = BitVec.allOnes w then c else c + 1

/-- `start_pulse(d, f)` (R132). -/
def startPulse (d : Time) (f : Bool) (s : State) : State :=
  if d = 0 then { s with tx := f } else { s with tx := true, pulseCnt := d, pulseFinal := f }

/-- `respond(code, data)` (R9, R88): sets this tick's response and nothing else. -/
def respond (c : RespCode) (d : Word) (s : State) : State := { s with respCode := c, respData := d }

/-- `resp_code[2:0]` (R89). -/
def RespCode.bits : RespCode → BitVec 3
  | .ok => 0
  | .full => 1
  | .empty => 2
  | .busy => 3
  | .badarg => 4
  | .illegal => 5

/-- The response as one word: `resp[34:32] = resp_code`, `resp[31:0] = resp_data` (R88). -/
def responseWord (s : State) : BitVec 35 := s.respCode.bits ++ s.respData

/-- The numeric encoding of `ch_state` (R24). -/
def ChState.bits : ChState → BitVec 2
  | .idle => 0
  | .awaitSample => 1
  | .awaitAck => 2
  | .awaitHold => 3

/-- The numeric encoding of `fc_state` (R25). -/
def FcState.bits : FcState → BitVec 2
  | .waitFrameStart => 0
  | .waitFrameData => 1
  | .frameEnd => 2

end Sys2Proof.Machine
end

