-- ==== Sys2Proof/Machine/Operands.lean ====
section
/-! DEFINITION. The operand forms as the commands use them (30_encoding.md R87): "each field is used as the unsigned
number it spells". -/

namespace Sys2Proof.Machine

/-- A one-bit value in `resp_data` (R88, `zext_32`). -/
def bitWord (b : Bool) : Word := (BitVec.ofBool b).setWidth 32

/-- A byte in `resp_data` (R88, `zext_32`). -/
def byteWord (v : Byte) : Word := v.setWidth 32

/-- A frame buffer index or count in `resp_data` (R88, `zext_32`). -/
def indexWord (v : BitVec 9) : Word := v.setWidth 32

/-- The frame-timeout count in `resp_data` (R207; R88). -/
def countWord (c : FtoCount) : Word := c.setWidth 32

/-- The operand `t` of format T, in ticks. A number above 2^32-1 is ill formed; its low 32 bits are used. Log 13. -/
def tickOperand (t : Nat) : Time := BitVec.ofNat Config.timeWidth t

/-- The operand `dur` of format P, in ticks. A number above 2^31-1 is ill formed; its low 31 bits are used. Log 13. -/
def durOperand (dur : Nat) : Time := (BitVec.ofNat 31 dur).setWidth Config.timeWidth

/-- The operand `len` of BEGIN as a frame length; used only for 1 .. FB_MAX (R200). -/
def lenOperand (len : Nat) : BitVec 9 := BitVec.ofNat 9 len

/-- The bits SENDSF enqueues: the start bit, then the byte, most significant bit first (R82, R201). -/
def subframeBits (v : Byte) : List Bool := true :: byteBits v

end Sys2Proof.Machine
end

