-- ==== Sys2Proof/Machine/Flags.lean ====
section
/-! DEFINITION. Flag and status computations: the derived conditions the rules test and the words STATUS and FSTATUS
(10_state.md R45, R46). The block has no arithmetic condition codes. -/

namespace Sys2Proof.Machine

/-- "Complete": `fc_en = 1` and `fb_idx = fb_len` (R11, R39, R202). -/
def frameComplete (s : State) : Bool := s.fcEn && decide (s.fbIdx = s.fbLen)

/-- `frameTimeoutDetected()`: `fto_cnt != 0` (R42, R206). -/
def timeoutDetected (s : State) : Bool := decide (s.ftoCnt ≠ 0)

/-- A frame is in progress: started (`in_sub = 1` or `fb_idx > 0`) and incomplete (`fb_idx < fb_len`) (R187, D19). -/
def frameInProgress (s : State) : Bool :=
  (s.inSub || decide (0 < s.fbIdx.toNat)) && decide (s.fbIdx.toNat < s.fbLen.toNat)

/-- The condition of R136 apart from `ch_state` and `edge_flag`: `can_init = 1`, `ob.cnt > 0`, `frame_end = 1`. -/
def mayInitiate (s : State) : Bool := s.frameEnd && (s.canInit && !s.ob.isEmpty)

/-- The channel runs in phase 4 (R104): no pulse was being timed at the start of phase 2, and none was started since. -/
def channelRuns (s : State) : Bool := !s.pulseBusy && decide (s.pulseCnt = 0)

/-- The word STATUS (R45), from bit 31 down. -/
def statusWord (s : State) : Word :=
  (0#2 ++ s.ob.cnt ++ s.ib.cnt ++ BitVec.ofBool (timeoutDetected s) ++ BitVec.ofBool (frameComplete s)
    ++ BitVec.ofBool s.inSub ++ s.fcState.bits ++ BitVec.ofBool s.fcEn ++ BitVec.ofBool s.hsErr
    ++ BitVec.ofBool s.canInit ++ BitVec.ofBool (decide (s.pulseCnt ≠ 0)) ++ BitVec.ofBool s.rxQ
    ++ BitVec.ofBool s.tx ++ BitVec.ofBool s.edgeFlag ++ BitVec.ofBool s.frameEnd ++ BitVec.ofBool s.selfInit
    ++ s.chState.bits : BitVec 32)

/-- The word FSTATUS (R46), from bit 31 down. -/
def fstatusWord (s : State) : Word := (0#2 ++ s.acc ++ s.bitcnt ++ s.fbLen ++ s.fbIdx : BitVec 32)

end Sys2Proof.Machine
end

