-- ==== Sys2Proof/Machine/Channel.lean ====
section
/-! DEFINITION. BitChannel: the edge detector (phase 1), the pulse engine (phase 2) and the channel state machine
(phase 4) of 42_bitchannel_fsm.md. -/

namespace Sys2Proof.Machine

/-- Phase 1, the edge detector (R131): a rising edge of `rx` sets the flag, and `rx_q` follows `rx`. -/
def edgeCapture (rx : Bool) (s : State) : State :=
  { s with edgeFlag := s.edgeFlag || (rx && !s.rxQ), rxQ := rx }

/-- Phase 2, the pulse engine (R133). `pulse_busy` is read before the decrement (R102). -/
def pulseEngine (s : State) : State :=
  if s.pulseCnt = 0 then { s with pulseBusy := false }
  else
    { s with
      pulseBusy := true
      pulseCnt := s.pulseCnt - 1
      tx := if s.pulseCnt = 1 then s.pulseFinal else s.tx }

/-- Pull the next outbound bit and start its cell (R80, R136, R139): `b <- pull(ob); start_pulse(WRITE_PULSE, b)`. Both
callers have `ob.cnt > 0`; on an empty queue there is no bit and no cell (R122). -/
def sendCell (p : Params) (s : State) : State :=
  match s.ob.pull with
  | (some b, ob) => startPulse p.writePulse b { s with ob := ob }
  | (none, _) => s

/-- Idle with an edge pending (R135): the session is peer-initiated. -/
def acceptSession (s : State) : State :=
  { s with edgeFlag := false, selfInit := false, frameEnd := false, tLast := s.now, chState := .awaitSample }

/-- Idle, this side initiates (R136). -/
def initiateSession (p : Params) (s : State) : State :=
  { sendCell p s with selfInit := true, frameEnd := false, tLast := s.now, chState := .awaitAck }

/-- Idle: a pending edge, then self-initiation, then the idle timeout (R135, R136, R137, R230); else nothing (R143). -/
def idleState (p : Params) (s : State) : State :=
  if s.edgeFlag then acceptSession s
  else if mayInitiate s then initiateSession p s
  else { s with frameEnd := s.frameEnd || elapsedAtLeast s.idleTo s }

/-- ASD, the sample (R138): a bit that finds `ib` full is lost (R146). -/
def sampleBit (s : State) : State := { s with ib := (s.ib.push s.rxQ).1, tLast := s.now }

/-- ASD, what is sent back after the sample (R139). -/
def answerSample (p : Params) (s : State) : State :=
  if s.ob.isEmpty then
    { (if s.selfInit then s else startPulse p.writePulse false s) with chState := .idle }
  else { sendCell p s with chState := .awaitAck }

/-- AwaitingSampleDelay (R138, R139); else keep waiting (R143). -/
def awaitSampleState (p : Params) (s : State) : State :=
  if elapsedAtLeast p.readDelay s then answerSample p (sampleBit s) else s

/-- AwaitingPeerAck: the ack edge (R140), else the enforced handshake timeout (R141), else wait (R143). -/
def awaitAckState (p : Params) (s : State) : State :=
  if s.edgeFlag then { s with edgeFlag := false, tLast := s.now, chState := .awaitHold }
  else if p.hsEnforce && elapsedAtLeast p.hsTimeout s then
    { s with tx := false, hsErr := true, tLast := s.now, chState := .idle }
  else s

/-- AwaitingHoldTime: release the line (R142), else wait (R143). `t_last` is not rewritten. -/
def awaitHoldState (p : Params) (s : State) : State :=
  if elapsedAtLeast p.writeDelay s then { s with tx := false, chState := .awaitSample } else s

/-- Phase 4, the channel state machine (R104, R144). -/
def channelPhase (p : Params) (s : State) : State :=
  if channelRuns s then
    match s.chState with
    | .idle => idleState p s
    | .awaitSample => awaitSampleState p s
    | .awaitAck => awaitAckState p s
    | .awaitHold => awaitHoldState p s
  else s

end Sys2Proof.Machine
end

