-- ==== Sys2Proof/Machine/ChannelCommands.lean ====
section
/-! DEFINITION. The BitChannel commands and the status commands (43_bitchannel_cmds.md), each the whole effect of its
rule in phase 3 of a tick (R103). -/

namespace Sys2Proof.Machine

/-- Enqueue bits on `ob` and answer OK, or FULL when not all of them fitted (R161, R162, R201). -/
def enqueue (bits : List Bool) (s : State) : State :=
  let r := s.ob.pushSeq bits
  respond (if r.2 then .ok else .full) 0 { s with ob := r.1 }

/-- NOP (R160). -/
def execNop (s : State) : Host.Outcome State Fault Refusal := .next (respond .ok 0 s)

/-- SENDBIT b (R161). -/
def execSendbit (b : Bool) (s : State) : Host.Outcome State Fault Refusal := .next (enqueue [b] s)

/-- SENDBYTE v (R162): eight bits, most significant first; the bits that fitted stay queued. -/
def execSendbyte (v : Byte) (s : State) : Host.Outcome State Fault Refusal := .next (enqueue (byteBits v) s)

/-- HASDATA n (R163). -/
def execHasdata (n : Nat) (s : State) : Host.Outcome State Fault Refusal :=
  .next (respond .ok (bitWord (decide (n ≤ s.ib.size))) s)

/-- RECVBIT (R164). -/
def execRecvbit (s : State) : Host.Outcome State Fault Refusal :=
  match s.ib.pull with
  | (some b, ib) => .next (respond .ok (bitWord b) { s with ib := ib })
  | (none, _) => .next (respond .empty 0 s)

/-- RECVBYTE (R165): nothing is pulled when fewer than eight bits are queued. -/
def execRecvbyte (s : State) : Host.Outcome State Fault Refusal :=
  if s.ib.size < 8 then .next (respond .empty 0 s)
  else .next (respond .ok (byteWord (bitsByte (s.ib.pullSeq 8).1)) { s with ib := (s.ib.pullSeq 8).2 })

/-- PULSE dur, final (R169): BUSY when a pulse was being timed at the start of the tick (R102). -/
def execPulse (dur : Nat) (final : Bool) (s : State) : Host.Outcome State Fault Refusal :=
  if s.pulseBusy then .next (respond .busy 0 s)
  else .next (respond .ok 0 (startPulse (durOperand dur) final s))

/-- SETINIT b (R166). -/
def execSetinit (b : Bool) (s : State) : Host.Outcome State Fault Refusal :=
  .next (respond .ok 0 { s with canInit := b })

/-- SETIDLE t (R167). -/
def execSetidle (t : Nat) (s : State) : Host.Outcome State Fault Refusal :=
  .next (respond .ok 0 { s with idleTo := tickOperand t })

/-- HSCLR (R168). -/
def execHsclr (s : State) : Host.Outcome State Fault Refusal := .next (respond .ok 0 { s with hsErr := false })

/-- STATUS (R170): the word of R45 from the state as phase 3 sees it. -/
def execStatus (s : State) : Host.Outcome State Fault Refusal := .next (respond .ok (statusWord s) s)

/-- FSTATUS (R171): the word of R46 from the state as phase 3 sees it. -/
def execFstatus (s : State) : Host.Outcome State Fault Refusal := .next (respond .ok (fstatusWord s) s)

end Sys2Proof.Machine
end

