-- ==== Sys2Proof/Machine/CodecCommands.lean ====
section
/-! DEFINITION. The FrameCodec commands (45_framecodec_cmds.md), each the whole effect of its rule in phase 3 of a tick
(R103). -/

namespace Sys2Proof.Machine

/-- BEGIN len (R200): bind a frame length and restart the codec, or BADARG. -/
def execBegin (len : Nat) (s : State) : Host.Outcome State Fault Refusal :=
  if len = 0 ∨ Config.fbMax < len then .next (respond .badarg 0 s)
  else
    .next (respond .ok 0
      { s with
        fcEn := true, fbLen := lenOperand len, fbIdx := 0, inSub := false, bitcnt := 0, acc := 0
        fcState := .waitFrameStart })

/-- SENDSF v (R201): one sub-frame; the bits that fitted stay queued. -/
def execSendsf (v : Byte) (s : State) : Host.Outcome State Fault Refusal := .next (enqueue (subframeBits v) s)

/-- FCOMPLETE (R202). -/
def execFcomplete (s : State) : Host.Outcome State Fault Refusal :=
  .next (respond .ok (bitWord (frameComplete s)) s)

/-- GETFRAME (R203): answers the write index and zeroes it. -/
def execGetframe (s : State) : Host.Outcome State Fault Refusal :=
  .next (respond .ok (indexWord s.fbIdx) { s with fbIdx := 0 })

/-- RESETFRAME (R204). -/
def execResetframe (s : State) : Host.Outcome State Fault Refusal := .next (respond .ok 0 { s with fbIdx := 0 })

/-- FBREAD idx (R205): BADARG outside the bound frame, else the byte. An index at or above FB_MAX names no byte (R60,
log 8). -/
def execFbread (idx : Nat) (s : State) : Host.Outcome State Fault Refusal :=
  if s.fbLen.toNat ≤ idx then .next (respond .badarg 0 s)
  else if idx < Config.fbMax then .next (respond .ok (byteWord (s.fbByte idx)) s)
  else .fault .noSuchByte

/-- FTODET (R206). -/
def execFtodet (s : State) : Host.Outcome State Fault Refusal :=
  .next (respond .ok (bitWord (timeoutDetected s)) s)

/-- FTOCNT (R207). -/
def execFtocnt (s : State) : Host.Outcome State Fault Refusal := .next (respond .ok (countWord s.ftoCnt) s)

/-- FTORESET (R208). -/
def execFtoreset (s : State) : Host.Outcome State Fault Refusal := .next (respond .ok 0 { s with ftoCnt := 0 })

end Sys2Proof.Machine
end

