-- ==== Sys2Proof/Machine/Codec.lean ====
section
/-! DEFINITION. FrameCodec: the state machine and the sub-frame assembler of 44_framecodec_fsm.md (phase 5), and the
receive side's treatment of a bit as the wire patterns use it. -/

namespace Sys2Proof.Machine

/-- `pull(ib)`, the result discarded (R181, R183, R189). -/
def drainBit (s : State) : State := { s with ib := s.ib.pull.2 }

/-- WFS with the flag clear: re-synchronisation (R182). -/
def resynchronise (s : State) : State :=
  { s with fbIdx := 0, inSub := false, bitcnt := 0, acc := 0, fcState := .waitFrameData }

/-- The eighth data bit: `fb[fb_idx] <- v`, the index advances, the sub-frame is over (R186). An index at or above
FB_MAX names no byte (R60, log 8). -/
def storeByte (v : Byte) (s : State) : Host.Outcome State Fault Refusal :=
  if s.fbIdx.toNat < Config.fbMax then
    .next { s with fb := Memory.write s.fb s.fbIdx.toNat v, fbIdx := s.fbIdx + 1, acc := v, inSub := false, bitcnt := 0 }
  else .fault .noSuchByte

/-- `acc <- (acc, b)[7:0]` (R111, R185). -/
def shiftIn (acc : Byte) (b : Bool) : Byte := (acc.setWidth 7 ++ BitVec.ofBool b : BitVec 8)

/-- A data bit inside a sub-frame (R185), and the store when it is the eighth (R186). -/
def accumulateBit (b : Bool) (s : State) : Host.Outcome State Fault Refusal :=
  if s.bitcnt + 1 = 8 then storeByte (shiftIn s.acc b) s
  else .next { s with acc := shiftIn s.acc b, bitcnt := s.bitcnt + 1 }

/-- A bit outside a sub-frame: 1 is a start bit, 0 a synchronization bit (R184). -/
def startBit (b : Bool) (s : State) : State :=
  if b then { s with inSub := true, bitcnt := 0, acc := 0 } else s

/-- WFD with the bit `b` pulled: dropped when the frame is complete (R183), else the start-bit detector (R184) or the
accumulator (R185). `fb_idx > fb_len` cannot be reached (R49) and is treated as complete. Log 10. -/
def assembleBit (b : Bool) (s : State) : Host.Outcome State Fault Refusal :=
  if s.fbIdx.toNat < s.fbLen.toNat then
    if s.inSub then accumulateBit b s else .next (startBit b s)
  else .next s

/-- WFD, no bit, flag set: a frame in progress is abandoned and counted, and the codec goes to FrameEnd (R187). -/
def closeFrame (s : State) : State :=
  if frameInProgress s then
    { s with ftoCnt := satInc s.ftoCnt, fbIdx := 0, inSub := false, bitcnt := 0, acc := 0, fcState := .frameEnd }
  else { s with fcState := .frameEnd }

/-- WaitFrameData: an available bit is handled before the flag is looked at (R183 to R188, R230). -/
def waitFrameDataState (s : State) : Host.Outcome State Fault Refusal :=
  match s.ib.pull with
  | (some b, ib) => assembleBit b { s with ib := ib }
  | (none, _) => .next (if s.frameEnd then closeFrame s else s)

/-- Phase 5, the frame codec (R105, R180, R190). -/
def codecPhase (s : State) : Host.Outcome State Fault Refusal :=
  if s.fcEn then
    match s.fcState with
    | .waitFrameStart => .next (if s.frameEnd then drainBit s else resynchronise s)
    | .waitFrameData => waitFrameDataState s
    | .frameEnd => .next (if s.frameEnd then drainBit s else { s with fcState := .waitFrameStart })
  else .next s

/-- The receive side's treatment of one inbound bit: it is queued on `ib` as R138 queues a sampled bit (lost if `ib` is
full, R146), then the codec phase runs once (R105, R106). Log 1. -/
def receiveBit (b : Bool) (s : State) : Host.Outcome State Fault Refusal :=
  codecPhase { s with ib := (s.ib.push b).1 }

/-- Inbound bits in wire order, one after the other. Log 1. -/
def receiveBits : List Bool → State → Host.Outcome State Fault Refusal
  | [], s => .next s
  | b :: bits, s => andThen (receiveBit b s) (receiveBits bits)

end Sys2Proof.Machine
end

