-- ==== Sys2Proof/Machine/WirePatterns.lean ====
section
/-! DEFINITION. The wire patterns of 30_encoding.md section 1: what the receive side does with their bits, in wire
order. They are no commands and give no response. Log 1. -/

namespace Sys2Proof.Machine

/-- SUBFRAME d (R82, R184 to R186): a start bit, then the byte, most significant bit first. -/
def execSubframe (d : Byte) (s : State) : Host.Outcome State Fault Refusal := receiveBits (subframeBits d) s

/-- SYNCBIT (R83, R184): one 0 bit. -/
def execSyncbit (s : State) : Host.Outcome State Fault Refusal := receiveBits [false] s

/-- RAWBYTE d (R85, R64): eight bits, most significant first, without a start bit. -/
def execRawbyte (d : Byte) (s : State) : Host.Outcome State Fault Refusal := receiveBits (byteBits d) s

end Sys2Proof.Machine
end

