-- ==== Sys2Proof/Machine/Dispatch.lean ====
section
/-! DEFINITION. One arm per instruction, each one direct call of its meaning. -/

namespace Sys2Proof.Machine

def exec (i : Instr) (s : State) : Host.Outcome State Fault Refusal :=
  match i with
  | .nop => Sys2Proof.Machine.execNop s
  | .sendbit b => Sys2Proof.Machine.execSendbit b s
  | .sendbyte v => Sys2Proof.Machine.execSendbyte v s
  | .hasdata n => Sys2Proof.Machine.execHasdata n s
  | .recvbit => Sys2Proof.Machine.execRecvbit s
  | .recvbyte => Sys2Proof.Machine.execRecvbyte s
  | .pulse dur final => Sys2Proof.Machine.execPulse dur final s
  | .setinit b => Sys2Proof.Machine.execSetinit b s
  | .setidle t => Sys2Proof.Machine.execSetidle t s
  | .hsclr => Sys2Proof.Machine.execHsclr s
  | .begin_ len => Sys2Proof.Machine.execBegin len s
  | .sendsf v => Sys2Proof.Machine.execSendsf v s
  | .fcomplete => Sys2Proof.Machine.execFcomplete s
  | .getframe => Sys2Proof.Machine.execGetframe s
  | .resetframe => Sys2Proof.Machine.execResetframe s
  | .fbread idx => Sys2Proof.Machine.execFbread idx s
  | .ftodet => Sys2Proof.Machine.execFtodet s
  | .ftocnt => Sys2Proof.Machine.execFtocnt s
  | .ftoreset => Sys2Proof.Machine.execFtoreset s
  | .status => Sys2Proof.Machine.execStatus s
  | .fstatus => Sys2Proof.Machine.execFstatus s
  | .subframe d => Sys2Proof.Machine.execSubframe d s
  | .syncbit => Sys2Proof.Machine.execSyncbit s
  | .rawbyte d => Sys2Proof.Machine.execRawbyte d s

end Sys2Proof.Machine
end

