-- ==== Sys2Proof/Machine/Tick.lean ====
section
/-! DEFINITION. The tick (40_tick_step.md): reset, and the six phases in order. -/

namespace Sys2Proof.Machine

/-- A tick with `rst = 1` (R101): every element takes its reset value; what R20 leaves unspecified (the FIFO slots, the
frame buffer) keeps what it held; the response is (OK, 0). The inputs still to come are the outside world's and stay. -/
def resetTick (p : Params) (s : State) : State :=
  { State.resetWith p with
    ib := { mem := s.ib.mem, rd := 0, cnt := 0 }
    ob := { mem := s.ob.mem, rd := 0, cnt := 0 }
    fb := s.fb
    fbPower := s.fbPower
    inputs := s.inputs
    envIdx := s.envIdx }

/-- Phase 3, the host command (R103, R91): no command answers (OK, 0); a word that is no instruction answers
(ILLEGAL, 0) and changes nothing else; any other runs its command rule completely. -/
def commandPhase (i : TickInput) (s : State) : Host.Outcome State Fault Refusal :=
  if i.cmdValid then
    match decode (.command i.cmd) with
    | .ok c => exec c s
    | .error _ => .next (respond .illegal 0 s)
  else .next (respond .ok 0 s)

/-- Phase 6, time (R107). -/
def timePhase (s : State) : State := { s with now := s.now + 1 }

/-- Phases 1 and 2 (R100): what the command phase sees. -/
def beforeCommand (rx : Bool) (s : State) : State := pulseEngine (edgeCapture rx s)

/-- Phases 4, 5 and 6 (R100): what follows the command phase. -/
def afterCommand (p : Params) (s : State) : Host.Outcome State Fault Refusal :=
  andThen (codecPhase (channelPhase p s)) fun t => .next (timePhase t)

/-- One tick (R100, R101, R228) of an instance with parameters `p`. -/
def tick (p : Params) (i : TickInput) (s : State) : Host.Outcome State Fault Refusal :=
  if i.rst then .next (resetTick p s)
  else andThen (commandPhase i (beforeCommand i.rx s)) (afterCommand p)

/-- A wire pattern handed to the receive side (R82, R83, R85; log 1): it runs its instruction. Bits that are none of
the three patterns are a legal inbound stream all the same (R92) and are received as they come (log 12). -/
def wireStep (bits : List Bool) (s : State) : Host.Outcome State Fault Refusal :=
  match decode (.wire bits) with
  | .ok c => exec c s
  | .error _ => receiveBits bits s

/-- The free inputs of a tick for which none are given (R6, R47). Log 2. -/
def freeInput (n : Nat) : TickInput :=
  { rst := Config.freeRst n, rx := Config.freeRx n, cmdValid := Config.freeCmdValid n, cmd := Config.freeCmd n }

/-- One step of an instance with parameters `p`: it takes the next given input, or the free inputs when none is given. -/
def stepWith (p : Params) (s : State) : Host.Outcome State Fault Refusal :=
  match s.inputs with
  | .tick i :: rest => tick p i { s with inputs := rest }
  | .wire bits :: rest => wireStep bits { s with inputs := rest }
  | [] => tick p (freeInput s.envIdx) { s with envIdx := s.envIdx + 1 }

/-- The input that presents a code to the block: a command word in a tick without reset and without a change of `rx`,
or the bits of a wire pattern. -/
def presentCode (rx : Bool) : Code → Input
  | .command w => .tick { rst := false, rx := rx, cmdValid := true, cmd := w }
  | .wire bits => .wire bits

/-- The input that presents the instruction `w` of opcode_table.json's numbering; a number that is no code there is
presented as a command word. -/
def presentTableWord (rx : Bool) (nbits w : Nat) : Input :=
  match tableCode nbits w with
  | some c => presentCode rx c
  | none => presentCode rx (.command (BitVec.ofNat 40 w))

end Sys2Proof.Machine
end

