-- ==== Sys2Proof/Machine/Step.lean ====
section
/-! DEFINITION. The step of the machine, and the state whose next step runs a given instruction. -/

namespace Sys2Proof.Machine

/-- One step of the instance whose parameters Config fixes (R100). -/
def step (s : State) : Host.Outcome State Fault Refusal := stepWith Config.params s

/-- `s` with the instruction `w` (`nbits` bits, numbered as spec/opcode_table.json numbers them) presented as its next
input: the next step runs exactly it. `rx` stays at the level it had, so that no edge is added. Log 2, log 11. -/
def State.withFetchWord (s : State) (nbits w : Nat) : State :=
  { s with inputs := presentTableWord s.rxQ nbits w :: s.inputs }

end Sys2Proof.Machine
end

