-- ==== Sys2Proof/Machine/Link.lean ====
section
/-! DEFINITION. Two instances wired back to back on one clock (40_tick_step.md R108, 60_exceptions.md R238): they share
nothing but the two lines. `Sys2Proof.core` is one instance; this is the peer side of R6 (3) made explicit. Log 14. -/

namespace Sys2Proof.Machine

/-- The two peers. -/
structure Pair where
  a : State
  b : State
  deriving DecidableEq, Repr

/-- What the two hosts give at one tick; each has its own reset and its own command port (R238). -/
structure PairInput where
  rstA : Bool
  cmdA : Option CmdWord
  rstB : Bool
  cmdB : Option CmdWord
  deriving DecidableEq, Repr

/-- One side's inputs of a tick, with `rx` the line the other side drives. -/
def sideInput (rst : Bool) (cmd : Option CmdWord) (rx : Bool) : TickInput :=
  match cmd with
  | some w => { rst := rst, rx := rx, cmdValid := true, cmd := w }
  | none => { rst := rst, rx := rx, cmdValid := false, cmd := 0 }

/-- One tick of both: the `rx` of each is the `tx` the other had after the tick before (R108). It stops if either side
stops. -/
def pairTick (pa pb : Params) (i : PairInput) (s : Pair) : Host.Outcome Pair Fault Refusal :=
  match tick pa (sideInput i.rstA i.cmdA s.b.tx) s.a with
  | .next a =>
    match tick pb (sideInput i.rstB i.cmdB s.a.tx) s.b with
    | .next b => .next { a := a, b := b }
    | .fault f => .fault f
    | .refused r => .refused r
  | .fault f => .fault f
  | .refused r => .refused r

/-- Both peers right after reset; both `tx` are 0, so both `rx` of the first tick are 0 (R108). Each has power-on frame
buffer contents of its own, numbers 0 and 1: nothing relates an unwritten byte of one to the other's (V1, log 6). The
FIFO slots of both are 0 (log 5). -/
def pairReset (pa pb : Params) : Pair :=
  { a := State.resetWith pa, b := { State.resetWith pb with fbPower := 1 } }

/-- Several ticks of both, one input each. -/
def pairRun (pa pb : Params) : List PairInput → Pair → Host.Outcome Pair Fault Refusal
  | [], s => .next s
  | i :: is, s =>
    match pairTick pa pb i s with
    | .next t => pairRun pa pb is t
    | .fault f => .fault f
    | .refused r => .refused r

end Sys2Proof.Machine
end

