-- ==== Sys2Proof/Safety.lean ====
section
/-! DEFINITION. The terms the statements use: the invariants of 10_state.md R49, runs of ticks, what a step leaves
unchanged, and the reference queue of 41_bitfifo.md R126. -/

namespace Sys2Proof.Machine

/-! ## The states the spec speaks of -/

/-- R49 (a), (b), (c): the occupancies, the frame indices, and a codec that is off. -/
def countsInv (s : State) : Bool :=
  decide (s.ib.cnt.toNat ≤ 64) && decide (s.ob.cnt.toNat ≤ 64)
    && decide (s.fbIdx.toNat ≤ s.fbLen.toNat) && decide (s.fbLen.toNat ≤ 256)
    && (!s.fcEn || decide (1 ≤ s.fbLen.toNat))
    && (s.fcEn || (decide (s.fbLen = 0) && decide (s.fbIdx = 0) && decide (s.fcState = .waitFrameStart) && !s.inSub))

/-- R49 (d), (e): the assembler. -/
def assemblerInv (s : State) : Bool :=
  (!s.inSub || decide (s.fbIdx.toNat < s.fbLen.toNat)) && decide (s.bitcnt.toNat ≤ 7)
    && (s.inSub || decide (s.bitcnt = 0))

/-- R49 (g), (h): the channel's flags. (f) holds by the type of `fc_state`. -/
def flagsInv (p : Params) (s : State) : Bool :=
  (!s.frameEnd || decide (s.chState = .idle)) && (!s.hsErr || p.hsEnforce)

/-- The invariants of R49 for an instance with parameters `p`, and the canonical form of the frame buffer. -/
def inv (p : Params) (s : State) : Bool := countsInv s && assemblerInv s && flagsInv p s && Memory.wf s.fb

/-- The step went on: neither a fault nor a refusal (R110). -/
def goesOn (o : Host.Outcome State Fault Refusal) : Bool :=
  match o with
  | .next _ => true
  | .fault _ => false
  | .refused _ => false

/-! ## Runs and frames -/

/-- Several ticks of one instance, one input each (R100). -/
def ticks (p : Params) : List TickInput → State → Host.Outcome State Fault Refusal
  | [], s => .next s
  | i :: is, s => andThen (tick p i s) (ticks p is)

/-- A tick without reset and without a command. -/
def lineInput (rx : Bool) : TickInput := { rst := false, rx := rx, cmdValid := false, cmd := 0 }

/-- A tick without reset that presents the command `c`. -/
def commandInput (rx : Bool) (c : Instr) : TickInput :=
  match encode c with
  | .command w => { rst := false, rx := rx, cmdValid := true, cmd := w }
  | .wire _ => lineInput rx

/-- Every byte of the frame buffer reads in `t` as it did in `s`. -/
def sameBytes (s t : State) : Prop := ∀ a : Nat, t.fbByte a = s.fbByte a

/-- `elapsed()` as a number: `(now - t_last) mod 2^32` (R9). -/
def elapsedNat (s : State) : Nat := (s.now.toNat + 2 ^ 32 - s.tLast.toNat) % 2 ^ 32

/-- The instruction is one of the 21 commands, not a wire pattern. -/
def isCommand : Instr → Bool
  | .subframe _ => false
  | .syncbit => false
  | .rawbyte _ => false
  | _ => true

/-- The commands that may answer FULL with some of their bits enqueued (R221). -/
def isSequenceSend : Instr → Bool
  | .sendbyte _ => true
  | .sendsf _ => true
  | _ => false

/-- The legal command words of R90 and R87: for each opcode, the bits of `arg` that must be 0. -/
def legalRows : List (BitVec 8 × Word) :=
  [(0x00, 0xFFFFFFFF), (0x10, 0xFFFFFFFE), (0x11, 0xFFFFFF00), (0x12, 0xFFFFFF00), (0x13, 0xFFFFFFFF),
   (0x14, 0xFFFFFFFF), (0x15, 0x00000000), (0x16, 0xFFFFFFFE), (0x17, 0x00000000), (0x18, 0xFFFFFFFF),
   (0x20, 0xFFFF0000), (0x21, 0xFFFFFF00), (0x22, 0xFFFFFFFF), (0x23, 0xFFFFFFFF), (0x24, 0xFFFFFFFF),
   (0x25, 0xFFFF0000), (0x26, 0xFFFFFFFF), (0x27, 0xFFFFFFFF), (0x28, 0xFFFFFFFF), (0x30, 0xFFFFFFFF),
   (0x31, 0xFFFFFFFF)]

/-- A command word is legal: its opcode has a row, and no reserved bit of that row is 1 (R91). -/
def legalWord (w : CmdWord) : Prop := ∃ r ∈ legalRows, opField w = r.1 ∧ argField w &&& r.2 = 0

/-- The bits of a stream of sub-frames, each after a run of synchronization zeros (R82, R83, R84). -/
def frameBits (items : List (Nat × Byte)) : List Bool :=
  items.flatMap fun c => List.replicate c.1 false ++ true :: byteBits c.2

/-! ## The reference queue of R126 -/

/-- One operation on a queue. -/
inductive QueueOp where
  | push (b : Bool)
  | pull
  deriving DecidableEq, Repr

/-- What an operation answers: a push whether it was accepted (R121), a pull a bit or EMPTY_IND (R122). -/
inductive QueueAnswer where
  | pushed (ok : Bool)
  | pulled (b : Option Bool)
  deriving DecidableEq, Repr

/-- The operations on a BitFifo, in order, and their answers. -/
def fifoRun : List QueueOp → BitFifo → List QueueAnswer × BitFifo
  | [], f => ([], f)
  | .push b :: ops, f =>
    let r := fifoRun ops (f.push b).1
    (.pushed (f.push b).2 :: r.1, r.2)
  | .pull :: ops, f =>
    let r := fifoRun ops f.pull.2
    (.pulled f.pull.1 :: r.1, r.2)

/-- The same operations on a list of at most 64 bits, first in, first out (R126). -/
def listRun : List QueueOp → List Bool → List QueueAnswer × List Bool
  | [], l => ([], l)
  | .push b :: ops, l =>
    if l.length < 64 then
      let r := listRun ops (l ++ [b])
      (.pushed true :: r.1, r.2)
    else
      let r := listRun ops l
      (.pushed false :: r.1, r.2)
  | .pull :: ops, l =>
    let r := listRun ops l.tail
    (.pulled l.head? :: r.1, r.2)

end Sys2Proof.Machine
end

