-- ==== Sys2Proof/Certificates/Slice0/Obligations.lean ====
section
/-! DEFINITION. The statements for the provers. `t = { s with … }` is the frame: every field not named is as before.
Where a statement speaks of memory it also says so byte by byte (`sameBytes`). -/

open Sys2Proof Sys2Proof.Machine

/-! ## Encoding -/

/-- Decoding the code of a well-formed instruction gives the instruction back, for every instruction and every operand
its encoding admits (R82, R83, R85, R86, R87, R90, R93). -/
def Obligations.DecodeInvertsEncode : Prop := ∀ i : Instr, i.wf = true → decode (encode i) = .ok i

/-- Every code that decodes is the code of the instruction it decodes to, which is well formed: no two codes mean the
same instruction and no bit of a code is ignored (R86, R87, R90, R91). -/
def Obligations.EncodeInvertsDecode : Prop :=
  ∀ (c : Code) (i : Instr), decode c = .ok i → i.wf = true ∧ encode i = c

/-- A command word is an instruction exactly when it is legal by R90 and R87; the command phase answers a word that is
not with (ILLEGAL, 0) and changes nothing else (R91). -/
def Obligations.IllegalWordsAnswerIllegal : Prop :=
  (∀ w : CmdWord, (∃ i, decode (.command w) = .ok i) ↔ legalWord w)
  ∧ ∀ (i : TickInput) (s : State), i.cmdValid = true → ¬ legalWord i.cmd →
      ∃ t, commandPhase i s = .next t ∧ t = { s with respCode := .illegal, respData := 0 } ∧ sameBytes s t

/-- A few words written out from the encoding tables decode to what they stand for (R82, R83, R90, R93). -/
def Obligations.SampleCodesDecode : Prop :=
  decode (.command 0x11000000A5#40) = .ok (.sendbyte 0xA5)
  ∧ decode (.command 0x158000000A#40) = .ok (.pulse 10 true)
  ∧ decode (.command 0x2000000005#40) = .ok (.begin_ 5)
  ∧ decode (.command 0x3000000000#40) = .ok .status
  ∧ decode (.command 0x9900000000#40) = .error (.unknownOpcode 0x99)
  ∧ decode (.command 0x1000000002#40) = .error (.reservedBits 0x10 2)
  ∧ decode (.wire [true, true, false, true, false, false, true, false, true]) = .ok (.subframe 0xA5)
  ∧ decode (.wire [false]) = .ok .syncbit

/-! ## The step -/

/-- A step runs the decoded instruction. A tick with a command word that decodes to `c` is phases 1 and 2, `exec c`, and
phases 4 to 6 (R100, R103); a wire pattern that decodes to `c` is `exec c` alone (the model's form, log 1); with no
input given the tick takes the free inputs (log 2). -/
def Obligations.StepRunsDecodedInstruction : Prop :=
  (∀ (s : State) (i : TickInput) (rest : List Input) (c : Instr),
    s.inputs = .tick i :: rest → i.rst = false → i.cmdValid = true → decode (.command i.cmd) = .ok c →
      step s = andThen (exec c (beforeCommand i.rx { s with inputs := rest })) (afterCommand Config.params))
  ∧ (∀ (s : State) (bits : List Bool) (rest : List Input) (c : Instr),
    s.inputs = .wire bits :: rest → decode (.wire bits) = .ok c → step s = exec c { s with inputs := rest })
  ∧ ∀ s : State, s.inputs = [] →
      step s = tick Config.params (freeInput s.envIdx) { s with envIdx := s.envIdx + 1 }

/-- The state that presents a table word runs exactly that instruction in its next step (the fixed interface of this
model; log 2, log 11). -/
def Obligations.PresentedTableWordRuns : Prop :=
  ∀ (s : State) (nbits w : Nat) (c : Instr), decodeTableWord nbits w = some c →
    step (s.withFetchWord nbits w) =
      if nbits = 40 then andThen (exec c (beforeCommand s.rxQ s)) (afterCommand Config.params) else exec c s

/-- Under the invariants of R49 every instruction completes, and leaves a state in which they hold. The 21 commands:
NOP, SENDBIT, SENDBYTE, HASDATA, RECVBIT, RECVBYTE, PULSE, SETINIT, SETIDLE, HSCLR, BEGIN, SENDSF, FCOMPLETE, GETFRAME,
RESETFRAME, FBREAD, FTODET, FTOCNT, FTORESET, STATUS, FSTATUS (R103: "A command never waits"). The three wire patterns
SUBFRAME, SYNCBIT, RAWBYTE: the spec makes them no commands and R103 does not speak of them; that they are instructions,
and what they do, is the model's choice (log 1, DESIGN CHOICE). -/
def Obligations.EveryInstructionCompletes : Prop :=
  ∀ (p : Params) (i : Instr) (s : State), inv p s = true → ∃ t, exec i s = .next t ∧ inv p t = true

/-- The invariants of R49 hold at reset. -/
def Obligations.InvariantsHoldAtReset : Prop := inv Config.params State.reset = true

/-- Every step keeps the invariants of R49 and the canonical form of the frame buffer. -/
def Obligations.StepKeepsInvariants : Prop :=
  ∀ s t : State, inv Config.params s = true → step s = .next t → inv Config.params t = true

/-- The step is total on the states of R49: it never stops, whatever its input, given or free (R110). -/
def Obligations.StepNeverStops : Prop := ∀ s : State, inv Config.params s = true → ∃ t, step s = .next t

/-! ## Reset -/

/-- A tick with `rst` = 1: every element takes its reset value, the FIFO slots and the frame buffer keep what they held,
`cmd` is ignored and the response is (OK, 0) (R101). -/
def Obligations.ResetTickTakesResetValues : Prop :=
  ∀ (p : Params) (i : TickInput) (s : State), i.rst = true →
    ∃ t, tick p i s = .next t
      ∧ t = { ib := { mem := s.ib.mem, rd := 0, cnt := 0 }, ob := { mem := s.ob.mem, rd := 0, cnt := 0 }
              chState := .idle, selfInit := false, frameEnd := false, edgeFlag := false, hsErr := false
              tLast := 0, rxQ := true, tx := false, pulseCnt := 0, pulseFinal := false
              canInit := p.canInitReset, idleTo := p.idleToReset, fcEn := false, fcState := .waitFrameStart
              fbLen := 0, fbIdx := 0, inSub := false, acc := 0, bitcnt := 0, ftoCnt := 0, fb := s.fb, now := 0, fbPower := s.fbPower
              pulseBusy := false, respCode := .ok, respData := 0, inputs := s.inputs, envIdx := s.envIdx }
      ∧ sameBytes s t

/-- After reset both queues are empty, the channel is in Idle with `rx_q` = 1 and nothing pending, the codec is off, and
`now` is 0 (R251, R252). -/
def Obligations.ResetLeavesIdleChannelAndCodecOff : Prop :=
  let s := State.reset
  s.ib.contents = [] ∧ s.ob.contents = [] ∧ s.chState = .idle ∧ s.selfInit = false ∧ s.frameEnd = false
  ∧ s.edgeFlag = false ∧ s.hsErr = false ∧ s.tLast = 0 ∧ s.rxQ = true ∧ s.tx = false ∧ s.pulseCnt = 0
  ∧ s.canInit = Config.params.canInitReset ∧ s.idleTo = Config.params.idleToReset ∧ s.fcEn = false
  ∧ s.fcState = .waitFrameStart ∧ s.fbLen = 0 ∧ s.fbIdx = 0 ∧ s.inSub = false ∧ s.acc = 0 ∧ s.bitcnt = 0
  ∧ s.ftoCnt = 0 ∧ s.now = 0

/-- With a quiet line and no command after reset, `frame_end` is 0 through tick `idle_to` - 1 and 1 after tick
`idle_to` (R253). -/
def Obligations.FirstFrameEndAfterIdleTimeout : Prop :=
  ∀ p : Params,
    (∀ n : Nat, n ≤ p.idleToReset.toNat →
      ∃ t, ticks p (List.replicate n (lineInput false)) (State.resetWith p) = .next t ∧ t.frameEnd = false
        ∧ t.chState = .idle ∧ t.now.toNat = n)
    ∧ ∃ t, ticks p (List.replicate (p.idleToReset.toNat + 1) (lineInput false)) (State.resetWith p) = .next t
        ∧ t.frameEnd = true ∧ t.chState = .idle

/-! ## BitFifo -/

/-- A BitFifo is a first-in first-out list of at most 64 bits: any sequence of pushes and pulls gives the answers the
list gives, and leaves the bits the list leaves (R120 to R122, R126). -/
def Obligations.FifoRefinesBoundedList : Prop :=
  ∀ (ops : List QueueOp) (f : BitFifo), f.cnt.toNat ≤ 64 →
    (fifoRun ops f).1 = (listRun ops f.contents).1 ∧ (fifoRun ops f).2.contents = (listRun ops f.contents).2

/-- At most 64 bits pushed into an empty queue come back in the same order, and the 65th push fails without altering
anything (R126). -/
def Obligations.SixtyFourBitsRoundTrip : Prop :=
  ∀ (f : BitFifo) (bits : List Bool), f.cnt = 0 → bits.length ≤ 64 →
    (f.pushSeq bits).2 = true
    ∧ ((f.pushSeq bits).1.pullSeq bits.length).1 = bits
    ∧ ((f.pushSeq bits).1.pullSeq bits.length).2.isEmpty = true
    ∧ (bits.length = 64 → ∀ b, (f.pushSeq bits).1.push b = ((f.pushSeq bits).1, false))

/-! ## BitChannel commands and status commands -/

/-- NOP, SETINIT, SETIDLE, HSCLR, RESETFRAME, GETFRAME, FTORESET complete, answer OK, and write only the register each
names (R160, R166, R167, R168, R203, R204, R208). -/
def Obligations.ControlCommandsWriteTheirRegister : Prop :=
  ∀ s : State,
    (∃ t, exec .nop s = .next t ∧ t = { s with respCode := .ok, respData := 0 } ∧ sameBytes s t)
    ∧ (∀ b, ∃ t, exec (.setinit b) s = .next t
        ∧ t = { s with canInit := b, respCode := .ok, respData := 0 } ∧ sameBytes s t)
    ∧ (∀ k, k < 2 ^ 32 → ∃ t, exec (.setidle k) s = .next t ∧ t.idleTo.toNat = k
        ∧ t = { s with idleTo := t.idleTo, respCode := .ok, respData := 0 } ∧ sameBytes s t)
    ∧ (∃ t, exec .hsclr s = .next t
        ∧ t = { s with hsErr := false, respCode := .ok, respData := 0 } ∧ sameBytes s t)
    ∧ (∃ t, exec .resetframe s = .next t
        ∧ t = { s with fbIdx := 0, respCode := .ok, respData := 0 } ∧ sameBytes s t)
    ∧ (∃ t, exec .getframe s = .next t ∧ t.respData.toNat = s.fbIdx.toNat
        ∧ t = { s with fbIdx := 0, respCode := .ok, respData := t.respData } ∧ sameBytes s t)
    ∧ ∃ t, exec .ftoreset s = .next t
        ∧ t = { s with ftoCnt := 0, respCode := .ok, respData := 0 } ∧ sameBytes s t

/-- SENDBIT, SENDBYTE and SENDSF complete: the bits that fit are appended to `ob` in order (the byte most significant
bit first, the sub-frame with its start bit), the answer is OK when all fitted and FULL when not, and nothing else
changes (R161, R162, R201). -/
def Obligations.SendCommandsQueueTheirBits : Prop :=
  ∀ (s : State) (b : Bool) (v : Byte), s.ob.cnt.toNat ≤ 64 →
    ∀ c ∈ [(Instr.sendbit b, [b]),
           (Instr.sendbyte v, (List.range 8).map fun k => v.getLsbD (7 - k)),
           (Instr.sendsf v, true :: (List.range 8).map fun k => v.getLsbD (7 - k))],
      ∃ t, exec c.1 s = .next t
        ∧ t.ob.contents = s.ob.contents ++ c.2.take (64 - s.ob.contents.length)
        ∧ t.respCode = (if s.ob.contents.length + c.2.length ≤ 64 then .ok else .full)
        ∧ t = { s with ob := t.ob, respCode := t.respCode, respData := 0 } ∧ sameBytes s t

/-- What the send commands leave on an empty outbound queue is exactly the wire code of the pattern: SENDSF of SUBFRAME,
SENDBYTE of RAWBYTE, SENDBIT 0 of SYNCBIT (R82, R83, R85, R94). -/
def Obligations.SendCommandsQueueTheWirePatterns : Prop :=
  ∀ (s : State) (v : Byte), s.ob.contents = [] →
    ∀ c ∈ [(Instr.sendsf v, Instr.subframe v), (Instr.sendbyte v, Instr.rawbyte v), (Instr.sendbit false, Instr.syncbit)],
      ∃ t, exec c.1 s = .next t ∧ encode c.2 = .wire t.ob.contents ∧ t.respCode = .ok

/-- RECVBIT takes the oldest inbound bit; on an empty queue it answers EMPTY and changes nothing (R164). -/
def Obligations.RecvbitTakesOldestBit : Prop :=
  ∀ s : State,
    (s.ib.contents = [] → ∃ t, exec .recvbit s = .next t
      ∧ t = { s with respCode := .empty, respData := 0 } ∧ sameBytes s t)
    ∧ ∀ b bs, s.ib.contents = b :: bs → ∃ t, exec .recvbit s = .next t ∧ t.ib.contents = bs
      ∧ t = { s with ib := t.ib, respCode := .ok, respData := if b then 1 else 0 } ∧ sameBytes s t

/-- RECVBYTE takes the eight oldest inbound bits, the first in bit 7; with fewer it answers EMPTY and takes none
(R165, R64). -/
def Obligations.RecvbyteTakesEightBits : Prop :=
  ∀ s : State,
    (s.ib.contents.length < 8 → ∃ t, exec .recvbyte s = .next t
      ∧ t = { s with respCode := .empty, respData := 0 } ∧ sameBytes s t)
    ∧ ∀ (v : Byte) (bs : List Bool), s.ib.contents = ((List.range 8).map fun k => v.getLsbD (7 - k)) ++ bs →
      ∃ t, exec .recvbyte s = .next t ∧ t.ib.contents = bs ∧ t.respData.toNat = v.toNat
        ∧ t = { s with ib := t.ib, respCode := .ok, respData := t.respData } ∧ sameBytes s t

/-- HASDATA n answers whether at least n inbound bits are queued, and changes nothing (R163). -/
def Obligations.HasdataComparesTheCount : Prop :=
  ∀ (s : State) (n : Nat), ∃ t, exec (.hasdata n) s = .next t
    ∧ t = { s with respCode := .ok, respData := if n ≤ s.ib.contents.length then 1 else 0 } ∧ sameBytes s t

/-- PULSE: BUSY with no effect when a pulse was being timed at the start of the tick; else the line goes high for `dur`
ticks, or at once to `final` when `dur` is 0 (R169, R132). -/
def Obligations.PulseCommandStartsAPulseOrIsBusy : Prop :=
  ∀ (s : State) (dur : Nat) (final : Bool), dur < 2 ^ 31 →
    (s.pulseBusy = true → ∃ t, exec (.pulse dur final) s = .next t
      ∧ t = { s with respCode := .busy, respData := 0 } ∧ sameBytes s t)
    ∧ (s.pulseBusy = false → dur = 0 → ∃ t, exec (.pulse dur final) s = .next t
      ∧ t = { s with tx := final, respCode := .ok, respData := 0 } ∧ sameBytes s t)
    ∧ (s.pulseBusy = false → 0 < dur → ∃ t, exec (.pulse dur final) s = .next t ∧ t.pulseCnt.toNat = dur
      ∧ t = { s with tx := true, pulseCnt := t.pulseCnt, pulseFinal := final, respCode := .ok, respData := 0 }
      ∧ sameBytes s t)

/-- STATUS completes, changes nothing, and answers the word of R45, field by field (R45, R170). -/
def Obligations.StatusAnswersEveryField : Prop :=
  ∀ s : State, ∃ t, exec .status s = .next t
    ∧ t = { s with respCode := .ok, respData := t.respData } ∧ sameBytes s t
    ∧ t.respData.extractLsb' 0 2 =
        (match s.chState with | .idle => 0#2 | .awaitSample => 1#2 | .awaitAck => 2#2 | .awaitHold => 3#2)
    ∧ t.respData.getLsbD 2 = s.selfInit ∧ t.respData.getLsbD 3 = s.frameEnd ∧ t.respData.getLsbD 4 = s.edgeFlag
    ∧ t.respData.getLsbD 5 = s.tx ∧ t.respData.getLsbD 6 = s.rxQ
    ∧ (t.respData.getLsbD 7 = true ↔ s.pulseCnt ≠ 0)
    ∧ t.respData.getLsbD 8 = s.canInit ∧ t.respData.getLsbD 9 = s.hsErr ∧ t.respData.getLsbD 10 = s.fcEn
    ∧ t.respData.extractLsb' 11 2 =
        (match s.fcState with | .waitFrameStart => 0#2 | .waitFrameData => 1#2 | .frameEnd => 2#2)
    ∧ t.respData.getLsbD 13 = s.inSub
    ∧ (t.respData.getLsbD 14 = true ↔ s.fcEn = true ∧ s.fbIdx = s.fbLen)
    ∧ (t.respData.getLsbD 15 = true ↔ s.ftoCnt ≠ 0)
    ∧ t.respData.extractLsb' 16 7 = s.ib.cnt ∧ t.respData.extractLsb' 23 7 = s.ob.cnt
    ∧ t.respData.extractLsb' 30 2 = 0

/-- FSTATUS completes, changes nothing, and answers the word of R46, field by field (R46, R171). -/
def Obligations.FstatusAnswersEveryField : Prop :=
  ∀ s : State, ∃ t, exec .fstatus s = .next t
    ∧ t = { s with respCode := .ok, respData := t.respData } ∧ sameBytes s t
    ∧ t.respData.extractLsb' 0 9 = s.fbIdx ∧ t.respData.extractLsb' 9 9 = s.fbLen
    ∧ t.respData.extractLsb' 18 4 = s.bitcnt ∧ t.respData.extractLsb' 22 8 = s.acc
    ∧ t.respData.extractLsb' 30 2 = 0

/-! ## FrameCodec commands -/

/-- BEGIN: a length of 1 to 256 is bound and the codec restarts in WaitFrameStart; 0 or more than 256 answers BADARG
and changes nothing (R200). -/
def Obligations.BeginBindsALengthOrRefuses : Prop :=
  ∀ (s : State) (len : Nat),
    (1 ≤ len ∧ len ≤ 256 → ∃ t, exec (.begin_ len) s = .next t ∧ t.fbLen.toNat = len
      ∧ t = { s with fcEn := true, fbLen := t.fbLen, fbIdx := 0, inSub := false, bitcnt := 0, acc := 0
                     fcState := .waitFrameStart, respCode := .ok, respData := 0 } ∧ sameBytes s t)
    ∧ (len = 0 ∨ 256 < len → ∃ t, exec (.begin_ len) s = .next t
      ∧ t = { s with respCode := .badarg, respData := 0 } ∧ sameBytes s t)

/-- FBREAD: inside the bound frame it answers the byte, whether written or not; at or beyond `fb_len` it answers BADARG.
It changes nothing (R205). An index below `fb_len` that is no byte of the memory is a fault of the model; `fb_len`
above 256 contradicts R49 (b) (log 8). -/
def Obligations.FbreadAnswersTheByteOrRefuses : Prop :=
  ∀ (s : State) (idx : Nat),
    (idx < s.fbLen.toNat ∧ idx < 256 → ∃ t, exec (.fbread idx) s = .next t
      ∧ t = { s with respCode := .ok, respData := (s.fbByte idx).setWidth 32 } ∧ sameBytes s t)
    ∧ (s.fbLen.toNat ≤ idx → ∃ t, exec (.fbread idx) s = .next t
      ∧ t = { s with respCode := .badarg, respData := 0 } ∧ sameBytes s t)
    ∧ (256 ≤ idx ∧ idx < s.fbLen.toNat → exec (.fbread idx) s = .fault .noSuchByte)

/-- FCOMPLETE, FTODET and FTOCNT complete, answer the frame buffer's completeness, whether a timeout was counted, and the
count, and change nothing (R202, R206, R207). -/
def Obligations.FrameQueriesAnswerAndChangeNothing : Prop :=
  ∀ s : State,
    (∃ t, exec .fcomplete s = .next t
      ∧ t = { s with respCode := .ok, respData := if s.fcEn = true ∧ s.fbIdx = s.fbLen then 1 else 0 }
      ∧ sameBytes s t)
    ∧ (∃ t, exec .ftodet s = .next t
      ∧ t = { s with respCode := .ok, respData := if s.ftoCnt ≠ 0 then 1 else 0 } ∧ sameBytes s t)
    ∧ ∃ t, exec .ftocnt s = .next t ∧ t = { s with respCode := .ok, respData := s.ftoCnt } ∧ sameBytes s t

/-! ## Commands as a whole -/

/-- No command changes `ch_state`, `t_last`, `frame_end`, `self_init`, `edge_flag`, `rx_q` or `now`, and none but PULSE
touches the output line or the pulse engine (the head of 43_bitchannel_cmds.md, R69). That a wire pattern changes none of
them either is the model's choice and not the spec's: a wire input is no tick (log 1, DESIGN CHOICE), while on the block
the sample of a bit does rewrite `t_last` (R138). -/
def Obligations.InstructionsLeaveTheProtocolAlone : Prop :=
  ∀ (i : Instr) (s t : State), exec i s = .next t →
    t.chState = s.chState ∧ t.tLast = s.tLast ∧ t.frameEnd = s.frameEnd ∧ t.selfInit = s.selfInit
    ∧ t.edgeFlag = s.edgeFlag ∧ t.rxQ = s.rxQ ∧ t.now = s.now
    ∧ ((∀ dur final, i ≠ .pulse dur final) →
        t.tx = s.tx ∧ t.pulseCnt = s.pulseCnt ∧ t.pulseFinal = s.pulseFinal)

/-- No command writes the frame buffer (R60), and a command that fails changes nothing but the response, except that
SENDBYTE or SENDSF that answers FULL may have queued bits; a failure carries no data (R88, R221, R232). -/
def Obligations.FailedCommandsChangeNothing : Prop :=
  ∀ (i : Instr) (s t : State), isCommand i = true → exec i s = .next t →
    t.fb = s.fb ∧ sameBytes s t
    ∧ (t.respCode ≠ .ok → t.respData = 0
        ∧ (t = { s with respCode := t.respCode, respData := 0 }
          ∨ t.respCode = .full ∧ isSequenceSend i = true ∧ t = { s with ob := t.ob, respCode := .full, respData := 0 }))

/-- Every tick answers with data 0 unless its code is OK, whatever the command word, and (OK, 0) when no command is
presented (R88, R103). -/
def Obligations.FailureResponsesCarryNoData : Prop :=
  ∀ (p : Params) (i : TickInput) (s t : State), tick p i s = .next t →
    (t.respCode ≠ .ok → t.respData = 0) ∧ (i.cmdValid = false → t.respCode = .ok ∧ t.respData = 0)

/-- NOP is identical in effect to a tick with `cmd_valid` = 0 (R160), and `cmd` is ignored while `cmd_valid` is 0
(R86, V10). -/
def Obligations.NopTickEqualsEmptyTick : Prop :=
  ∀ (p : Params) (s : State) (rst rx : Bool) (w : CmdWord),
    tick p { rst := rst, rx := rx, cmdValid := true, cmd := 0 } s
      = tick p { rst := rst, rx := rx, cmdValid := false, cmd := w } s

/-! ## The wire patterns at the receive side -/

/-- SYNCBIT outside a sub-frame is discarded: nothing changes but the queue's representation (R83, R184). -/
def Obligations.SyncbitIsDiscarded : Prop :=
  ∀ s : State, s.fcEn = true → s.fcState = .waitFrameData → s.ib.contents = [] → s.fbIdx.toNat < s.fbLen.toNat →
    s.inSub = false →
    ∃ t, exec .syncbit s = .next t ∧ t.ib.contents = [] ∧ t = { s with ib := t.ib } ∧ sameBytes s t

/-- SUBFRAME d, received between sub-frames, stores d at the write index and advances it; every other byte stays
(R82, R184, R185, R186). The address stored to is the one `storeByte` uses: `fb_idx` of the state before. -/
def Obligations.SubframeStoresItsByte : Prop :=
  ∀ (s : State) (d : Byte), s.fcEn = true → s.fcState = .waitFrameData → s.ib.contents = [] →
    s.fbIdx.toNat < s.fbLen.toNat → s.fbLen.toNat ≤ 256 → s.inSub = false →
    ∃ t, exec (.subframe d) s = .next t ∧ t.ib.contents = []
      ∧ t.fbByte s.fbIdx.toNat = d
      ∧ (∀ a, a ≠ s.fbIdx.toNat → t.fbByte a = s.fbByte a)
      ∧ t = { s with ib := t.ib, fb := t.fb, fbIdx := s.fbIdx + 1, acc := d, bitcnt := 0 }

/-- RAWBYTE d with no buffer bound is queued, most significant bit first, and RECVBYTE then answers d (R85, R64, R180,
R165). -/
def Obligations.RawbyteComesBackByRecvbyte : Prop :=
  ∀ (s : State) (d : Byte), s.fcEn = false → s.ib.contents.length ≤ 56 →
    ∃ t, exec (.rawbyte d) s = .next t
      ∧ t.ib.contents = s.ib.contents ++ ((List.range 8).map fun k => d.getLsbD (7 - k))
      ∧ t = { s with ib := t.ib } ∧ sameBytes s t
      ∧ (s.ib.contents = [] → ∃ u, exec .recvbyte t = .next u ∧ u.respCode = .ok ∧ u.respData.toNat = d.toNat
          ∧ u.ib.contents = [])

/-- A frame of L sub-frames, with any runs of synchronization zeros before and between them and any bits after them,
received into a buffer bound with `fb_len` = L: the frame is complete, `fb[0..L-1]` are the L bytes in order, no other
byte changes (after R191 (a), (d), R84, R183 to R186). "Received" is `receiveBits`: each bit is queued and the codec phase
runs once for it, with no tick and no change of the flag between two bits. That form of reception is the model's choice
(log 1, DESIGN CHOICE); the spec's rules speak of bits that the channel samples in ticks. -/
def Obligations.FrameIsAssembledInOrder : Prop :=
  ∀ (s : State) (items : List (Nat × Byte)) (extra : List Bool),
    s.fcEn = true → s.fcState = .waitFrameData → s.ib.contents = [] → s.fbIdx = 0 → s.inSub = false →
    s.fbLen.toNat = items.length → items.length ≤ 256 →
    ∃ t, receiveBits (frameBits items ++ extra) s = .next t
      ∧ frameComplete t = true ∧ t.ib.contents = [] ∧ t.fcState = .waitFrameData ∧ t.ftoCnt = s.ftoCnt
      ∧ (∀ (k : Nat) (h : k < items.length), t.fbByte k = (items[k]).2)
      ∧ ∀ a, items.length ≤ a → t.fbByte a = s.fbByte a

/-! ## The edge detector and the pulse engine -/

/-- Phase 1: a rising edge sets the flag, a falling edge or a level sets nothing, the flag is sticky, and `rx_q` follows
`rx` (R131). -/
def Obligations.EdgeDetectorSetsStickyFlag : Prop :=
  ∀ (rx : Bool) (s : State),
    edgeCapture rx s =
      { s with edgeFlag := if rx = true ∧ s.rxQ = false then true else s.edgeFlag, rxQ := rx }

/-- An edge is never lost: after a tick without reset in which `rx` rose, either the flag is still set, or the channel
consumed it in this tick, in Idle (to AwaitingSampleDelay) or in AwaitingPeerAck (to AwaitingHoldTime), with
`t_last` = `now` (R75, R225). -/
def Obligations.RisingEdgeIsConsumedOrPending : Prop :=
  ∀ (p : Params) (i : TickInput) (s t : State), i.rst = false → tick p i s = .next t →
    (i.rx = true ∧ s.rxQ = false) ∨ s.edgeFlag = true →
    t.edgeFlag = true
    ∨ (t.tLast = s.now ∧ ((s.chState = .idle ∧ t.chState = .awaitSample)
        ∨ (s.chState = .awaitAck ∧ t.chState = .awaitHold)))

/-- Phase 2: `pulse_busy` tells whether a pulse was in progress; if so the counter falls by one, and when it reaches 0
the line takes its final level (R133). -/
def Obligations.PulseEngineCountsDown : Prop :=
  ∀ s : State,
    (s.pulseCnt = 0 → pulseEngine s = { s with pulseBusy := false })
    ∧ (1 < s.pulseCnt.toNat →
        pulseEngine s = { s with pulseBusy := true, pulseCnt := s.pulseCnt - 1 })
    ∧ (s.pulseCnt = 1 →
        pulseEngine s = { s with pulseBusy := true, pulseCnt := 0, tx := s.pulseFinal })

/-- A pulse runs its course whatever happens: through the ticks that follow its start, with any commands and any `rx`
but no reset, the line stays high and the channel does not move until the counter has run out, and in that tick the
line takes its final level (R133, R104, R169). -/
def Obligations.PulseRunsItsCourse : Prop :=
  ∀ (p : Params) (s : State) (is : List TickInput), inv p s = true → s.tx = true →
    0 < is.length → is.length ≤ s.pulseCnt.toNat → (∀ i ∈ is, i.rst = false) →
    ∃ t, ticks p is s = .next t ∧ t.pulseCnt.toNat = s.pulseCnt.toNat - is.length
      ∧ t.tx = (if is.length < s.pulseCnt.toNat then true else s.pulseFinal)
      ∧ t.pulseFinal = s.pulseFinal ∧ t.chState = s.chState ∧ t.tLast = s.tLast ∧ t.frameEnd = s.frameEnd
      ∧ t.selfInit = s.selfInit ∧ t.pulseBusy = true

/-! ## The channel state machine -/

/-- Idle with an edge pending: the session is peer-initiated (R135), whatever `ob` holds and whatever `can_init` is. -/
def Obligations.IdleEdgeBeginsPeerSession : Prop :=
  ∀ (p : Params) (s : State), s.pulseBusy = false → s.pulseCnt = 0 → s.chState = .idle → s.edgeFlag = true →
    channelPhase p s =
      { s with edgeFlag := false, selfInit := false, frameEnd := false, tLast := s.now, chState := .awaitSample }

/-- Idle with no edge, `can_init`, `frame_end` and a queued bit: this side initiates with a cell of the oldest bit
(R136, R132). -/
def Obligations.IdleInitiatesWithACell : Prop :=
  ∀ (p : Params) (s : State) (b : Bool) (bs : List Bool), p.legal = true →
    s.pulseBusy = false → s.pulseCnt = 0 → s.chState = .idle → s.edgeFlag = false → s.canInit = true →
    s.frameEnd = true → s.ob.contents = b :: bs →
    ∃ t, channelPhase p s = t ∧ t.ob.contents = bs
      ∧ t = { s with ob := t.ob, tx := true, pulseCnt := p.writePulse, pulseFinal := b, selfInit := true
                     frameEnd := false, tLast := s.now, chState := .awaitAck }

/-- Idle with no edge and no initiation: the flag is set exactly when `elapsed()` is at least `idle_to`, and stays set;
nothing else changes (R137, R143). -/
def Obligations.IdleTimeoutSetsFrameEnd : Prop :=
  ∀ (p : Params) (s : State), s.pulseBusy = false → s.pulseCnt = 0 → s.chState = .idle → s.edgeFlag = false →
    ¬ (s.canInit = true ∧ s.ob.contents ≠ [] ∧ s.frameEnd = true) →
    channelPhase p s =
      { s with frameEnd := if s.idleTo.toNat ≤ elapsedNat s then true else s.frameEnd }

/-- AwaitingSampleDelay once `READ_DELAY` has elapsed: the line's level is queued on `ib` (lost if `ib` is full), and
the answer is by R139: nothing, an ack-only pulse, or a cell of the next outbound bit (R138, R139, R146). -/
def Obligations.SampleIsQueuedAndAnswered : Prop :=
  ∀ (p : Params) (s : State), p.legal = true → s.pulseBusy = false → s.pulseCnt = 0 → s.chState = .awaitSample →
    p.readDelay.toNat ≤ elapsedNat s → s.ib.cnt.toNat ≤ 64 →
    ∃ t, channelPhase p s = t ∧ t.tLast = s.now
      ∧ t.ib.contents = (if s.ib.contents.length < 64 then s.ib.contents ++ [s.rxQ] else s.ib.contents)
      ∧ (s.ob.contents = [] → s.selfInit = true → t = { s with ib := t.ib, tLast := s.now, chState := .idle })
      ∧ (s.ob.contents = [] → s.selfInit = false →
          t = { s with ib := t.ib, tLast := s.now, tx := true, pulseCnt := p.writePulse, pulseFinal := false
                       chState := .idle })
      ∧ ∀ b bs, s.ob.contents = b :: bs → t.ob.contents = bs
          ∧ t = { s with ib := t.ib, ob := t.ob, tLast := s.now, tx := true, pulseCnt := p.writePulse
                         pulseFinal := b, chState := .awaitAck }

/-- AwaitingPeerAck: the ack edge leads to AwaitingHoldTime (R140). With no edge nothing changes, except that an
enforced timeout that has elapsed releases the line, records the error and returns to Idle (R141). -/
def Obligations.AwaitAckEndsByEdgeOrEnforcedTimeout : Prop :=
  ∀ (p : Params) (s : State), s.pulseBusy = false → s.pulseCnt = 0 → s.chState = .awaitAck →
    (s.edgeFlag = true → channelPhase p s = { s with edgeFlag := false, tLast := s.now, chState := .awaitHold })
    ∧ (s.edgeFlag = false → p.hsEnforce = true → p.hsTimeout.toNat ≤ elapsedNat s →
        channelPhase p s = { s with tx := false, hsErr := true, tLast := s.now, chState := .idle })
    ∧ (s.edgeFlag = false → ¬ (p.hsEnforce = true ∧ p.hsTimeout.toNat ≤ elapsedNat s) → channelPhase p s = s)

/-- AwaitingHoldTime: once `WRITE_DELAY` has elapsed the line is released and the channel goes to sample; `t_last` is not
rewritten and a pending edge is not consumed. Before that nothing changes (R142). -/
def Obligations.HoldEndsWithTheLineReleased : Prop :=
  ∀ (p : Params) (s : State), s.pulseBusy = false → s.pulseCnt = 0 → s.chState = .awaitHold →
    (p.writeDelay.toNat ≤ elapsedNat s → channelPhase p s = { s with tx := false, chState := .awaitSample })
    ∧ (elapsedNat s < p.writeDelay.toNat → channelPhase p s = s)

/-- The channel phase changes nothing while a pulse is timed, and nothing in AwaitingSampleDelay before its delay has
elapsed (R104, R143). -/
def Obligations.ChannelWaitsUnchanged : Prop :=
  ∀ (p : Params) (s : State),
    (s.pulseBusy = true ∨ s.pulseCnt ≠ 0)
      ∨ (s.chState = .awaitSample ∧ elapsedNat s < p.readDelay.toNat) →
    channelPhase p s = s

/-- Without enforcement a channel that waits for its ack on a line that does not rise waits for ever, whatever the host
commands (R141, R147). -/
def Obligations.AwaitAckStallsWithoutAnEdge : Prop :=
  ∀ (p : Params) (s : State) (is : List TickInput), inv p s = true → p.hsEnforce = false →
    s.chState = .awaitAck → s.edgeFlag = false → (∀ i ∈ is, i.rst = false ∧ i.rx = false) →
    ∃ t, ticks p is s = .next t ∧ t.chState = .awaitAck ∧ t.frameEnd = false ∧ t.tLast = s.tLast
      ∧ t.hsErr = false

/-! ## The frame codec -/

/-- WaitFrameStart and FrameEnd: while the flag is set one residual bit is drained; when it is clear WaitFrameStart
re-synchronises and enters WaitFrameData, FrameEnd returns to WaitFrameStart, and no bit is pulled. A codec that is
off does nothing (R180, R181, R182, R189). -/
def Obligations.CodecDrainsThenResynchronises : Prop :=
  ∀ s : State,
    (s.fcEn = false → codecPhase s = .next s)
    ∧ (s.fcEn = true → s.fcState ≠ .waitFrameData → s.frameEnd = true →
        ∃ t, codecPhase s = .next t ∧ t.ib.contents = s.ib.contents.tail ∧ t = { s with ib := t.ib })
    ∧ (s.fcEn = true → s.fcState = .waitFrameStart → s.frameEnd = false →
        codecPhase s = .next
          { s with fbIdx := 0, inSub := false, bitcnt := 0, acc := 0, fcState := .waitFrameData })
    ∧ (s.fcEn = true → s.fcState = .frameEnd → s.frameEnd = false →
        codecPhase s = .next { s with fcState := .waitFrameStart })

/-- WaitFrameData with a bit: dropped when the frame is complete (R183); outside a sub-frame a 1 starts one and a 0 is
discarded (R184). The flag is not looked at. -/
def Obligations.StartBitDetectorAndCompleteFrame : Prop :=
  ∀ (s : State) (b : Bool) (bs : List Bool), s.fcEn = true → s.fcState = .waitFrameData → s.ib.contents = b :: bs →
    (s.fbIdx = s.fbLen → ∃ t, codecPhase s = .next t ∧ t.ib.contents = bs ∧ t = { s with ib := t.ib })
    ∧ (s.fbIdx.toNat < s.fbLen.toNat → s.inSub = false →
        ∃ t, codecPhase s = .next t ∧ t.ib.contents = bs
          ∧ t = if b then { s with ib := t.ib, inSub := true, bitcnt := 0, acc := 0 } else { s with ib := t.ib })

/-- WaitFrameData inside a sub-frame: the bit is shifted in at bit 0; the eighth stores the byte at the write index and
ends the sub-frame, every other byte staying (R185, R186). -/
def Obligations.DataBitsShiftInAndTheEighthStores : Prop :=
  ∀ (s : State) (b : Bool) (bs : List Bool), s.fcEn = true → s.fcState = .waitFrameData → s.ib.contents = b :: bs →
    s.fbIdx.toNat < s.fbLen.toNat → s.fbLen.toNat ≤ 256 → s.inSub = true →
    ∃ t, codecPhase s = .next t ∧ t.ib.contents = bs
      ∧ t.acc.toNat = (2 * s.acc.toNat + (if b then 1 else 0)) % 256
      ∧ (s.bitcnt ≠ 7 → t = { s with ib := t.ib, acc := t.acc, bitcnt := s.bitcnt + 1 } ∧ sameBytes s t)
      ∧ (s.bitcnt = 7 →
          t = { s with ib := t.ib, acc := t.acc, fb := t.fb, fbIdx := s.fbIdx + 1, inSub := false, bitcnt := 0 }
          ∧ t.fbByte s.fbIdx.toNat = t.acc
          ∧ ∀ a, a ≠ s.fbIdx.toNat → t.fbByte a = s.fbByte a)

/-- WaitFrameData with no bit: with the flag set the codec goes to FrameEnd, and a started, incomplete frame is counted
(saturating) and abandoned, its bytes staying; with the flag clear nothing changes (R187, R188). -/
def Obligations.FrameBoundaryCountsAStartedFrame : Prop :=
  ∀ s : State, s.fcEn = true → s.fcState = .waitFrameData → s.ib.contents = [] →
    (s.frameEnd = false → codecPhase s = .next s)
    ∧ (s.frameEnd = true → (s.inSub = true ∨ 0 < s.fbIdx.toNat) ∧ s.fbIdx.toNat < s.fbLen.toNat →
        ∃ t, codecPhase s = .next t ∧ t.ftoCnt.toNat = min (s.ftoCnt.toNat + 1) (2 ^ 32 - 1)
          ∧ t = { s with ftoCnt := t.ftoCnt, fbIdx := 0, inSub := false, bitcnt := 0, acc := 0
                         fcState := .frameEnd } ∧ sameBytes s t)
    ∧ (s.frameEnd = true → ¬ ((s.inSub = true ∨ 0 < s.fbIdx.toNat) ∧ s.fbIdx.toNat < s.fbLen.toNat) →
        codecPhase s = .next { s with fcState := .frameEnd })

/-! ## Whole-machine rules -/

/-- Who writes what: the channel phase writes only the queues and the channel's own registers and leaves every byte of
the frame buffer; the codec phase writes only `ib` and the codec's own registers, and at most the byte at the write
index (R48, R180). -/
def Obligations.PhasesWriteOnlyTheirOwnState : Prop :=
  (∀ (p : Params) (s t : State), channelPhase p s = t →
    t = { s with ib := t.ib, ob := t.ob, chState := t.chState, selfInit := t.selfInit, frameEnd := t.frameEnd
                 edgeFlag := t.edgeFlag, hsErr := t.hsErr, tLast := t.tLast, tx := t.tx, pulseCnt := t.pulseCnt
                 pulseFinal := t.pulseFinal } ∧ sameBytes s t)
  ∧ ∀ s t : State, codecPhase s = .next t →
    t = { s with ib := t.ib, fcState := t.fcState, fbIdx := t.fbIdx, inSub := t.inSub, acc := t.acc
                 bitcnt := t.bitcnt, ftoCnt := t.ftoCnt, fb := t.fb }
    ∧ ∀ a, a ≠ s.fbIdx.toNat → t.fbByte a = s.fbByte a

/-- Every tick without reset advances `now` by one, modulo 2^32 (R107). -/
def Obligations.EveryTickAdvancesTime : Prop :=
  ∀ (p : Params) (i : TickInput) (s t : State), i.rst = false → tick p i s = .next t →
    t.now.toNat = (s.now.toNat + 1) % 2 ^ 32 ∧ t.rxQ = i.rx

/-- In a tick without reset, `can_init`, `idle_to`, `fb_len` change only by SETINIT, SETIDLE, BEGIN; `hs_err` is cleared
only by HSCLR; `fc_en` is never cleared (R29, R35, R36, R38, R39). -/
def Obligations.ControlRegistersChangeOnlyByTheirCommand : Prop :=
  ∀ (p : Params) (i : TickInput) (s t : State), i.rst = false → tick p i s = .next t →
    (t.canInit = s.canInit ∨ i.cmdValid = true ∧ ∃ b, decode (.command i.cmd) = .ok (.setinit b) ∧ t.canInit = b)
    ∧ (t.idleTo = s.idleTo ∨ i.cmdValid = true ∧ ∃ k, decode (.command i.cmd) = .ok (.setidle k)
        ∧ t.idleTo.toNat = k)
    ∧ (t.fbLen = s.fbLen ∨ i.cmdValid = true ∧ ∃ len, decode (.command i.cmd) = .ok (.begin_ len)
        ∧ t.fbLen.toNat = len)
    ∧ (s.hsErr = true → t.hsErr = true ∨ i.cmdValid = true ∧ decode (.command i.cmd) = .ok .hsclr)
    ∧ (s.fcEn = true → t.fcEn = true)

/-- The frame-timeout counter never decreases but by FTORESET or reset, and a tick adds at most one (R42, R222). -/
def Obligations.FrameTimeoutCounterIsMonotone : Prop :=
  ∀ (p : Params) (i : TickInput) (s t : State), i.rst = false → tick p i s = .next t →
    ¬ (i.cmdValid = true ∧ decode (.command i.cmd) = .ok .ftoreset) →
    s.ftoCnt.toNat ≤ t.ftoCnt.toNat ∧ t.ftoCnt.toNat ≤ s.ftoCnt.toNat + 1

/-- A bit queued at a tick in an idle initiator with `frame_end` set starts its cell at the same tick (R281, R72 (a)). -/
def Obligations.SendbitStartsItsCellInTheSameTick : Prop :=
  ∀ (p : Params) (s : State) (b rx : Bool), p.legal = true → s.chState = .idle → s.edgeFlag = false →
    (rx = true → s.rxQ = true) → s.pulseCnt = 0 → s.canInit = true → s.frameEnd = true → s.ob.contents = [] →
    s.fcEn = false →
    ∃ t, tick p (commandInput rx (.sendbit b)) s = .next t ∧ t.ob.contents = []
      ∧ t = { s with ob := t.ob, rxQ := rx, pulseBusy := false, tx := true, pulseCnt := p.writePulse, pulseFinal := b
                     selfInit := true, frameEnd := false, tLast := s.now, chState := .awaitAck, now := s.now + 1
                     respCode := .ok, respData := 0 }

/-- SETIDLE acts in its own tick: lowering `idle_to` to what has already elapsed sets `frame_end` at this very tick, and
raising it never clears the flag (R167, R72 (d)). -/
def Obligations.SetidleActsInTheSameTick : Prop :=
  ∀ (p : Params) (s : State) (k : Nat) (rx : Bool), k < 2 ^ 32 → s.chState = .idle → s.edgeFlag = false →
    (rx = true → s.rxQ = true) → s.pulseCnt = 0 → s.canInit = false → s.fcEn = false →
    ∃ t, tick p (commandInput rx (.setidle k)) s = .next t ∧ t.idleTo.toNat = k
      ∧ t.frameEnd = (if k ≤ elapsedNat s then true else s.frameEnd) ∧ t.tLast = s.tLast

/-- A word the block does not know has no effect on the rest of its tick: the tick runs as with no command, but for the
response (R91). -/
def Obligations.IllegalTickEqualsEmptyTick : Prop :=
  ∀ (p : Params) (s t : State) (rx : Bool) (w : CmdWord), ¬ legalWord w →
    tick p (lineInput rx) s = .next t →
    tick p { rst := false, rx := rx, cmdValid := true, cmd := w } s = .next { t with respCode := .illegal, respData := 0 }

/-- Two peers on one clock: at every tick each side's `rx` is the level the other side's `tx` had after the tick before,
and that line is all a side sees of the other, for side A and for side B alike (R108, R73, R238). -/
def Obligations.PeersInteractOnlyThroughTheLines : Prop :=
  ∀ (pa pb : Params) (i : PairInput) (s t : Pair), pairTick pa pb i s = .next t →
    tick pa (sideInput i.rstA i.cmdA s.b.tx) s.a = .next t.a
    ∧ tick pb (sideInput i.rstB i.cmdB s.a.tx) s.b = .next t.b
    ∧ (i.rstA = false → t.a.rxQ = s.b.tx)
    ∧ (i.rstB = false → t.b.rxQ = s.a.tx)
    ∧ (∀ (pb' : Params) (j : PairInput) (s' t' : Pair), pairTick pa pb' j s' = .next t' →
        s.a = s'.a → s.b.tx = s'.b.tx → i.rstA = j.rstA → i.cmdA = j.cmdA → t.a = t'.a)
    ∧ ∀ (pa' : Params) (j : PairInput) (s' t' : Pair), pairTick pa' pb j s' = .next t' →
        s.b = s'.b → s.a.tx = s'.a.tx → i.rstB = j.rstB → i.cmdB = j.cmdB → t.b = t'.b
end

