-- ==== Sys2Proof/Laws/Config.lean ====
section
/-! SUPPORT. The parameters of the instance are legal, whatever the OPEN constants are (00_scope.md R5). -/

namespace Sys2Proof

theorem Config.params_legal : Config.params.legal = true := by
  have h1 : ∀ x : BitVec 31, (x.setWidth Config.timeWidth).toNat < 2 ^ 31 := fun x => by
    rw [BitVec.toNat_setWidth_of_le (by decide)]; exact x.isLt
  have h2 : ∀ x : BitVec 31, 1 ≤ (if x = 0 then 1 else x.setWidth Config.timeWidth : Time).toNat
      ∧ (if x = 0 then 1 else x.setWidth Config.timeWidth : Time).toNat < 2 ^ 31 := fun x => by
    split
    · decide
    · next hx =>
      refine ⟨?_, h1 x⟩
      rw [BitVec.toNat_setWidth_of_le (by decide)]
      exact Nat.one_le_iff_ne_zero.2 fun h => hx (BitVec.eq_of_toNat_eq (by simpa using h))
  unfold Params.legal
  simp only [Bool.and_eq_true, decide_eq_true_eq]
  exact ⟨⟨⟨⟨(h2 _).1, (h2 _).2⟩, h1 _⟩, h1 _⟩, h1 _⟩

/-! ## `W_T` = `FTO_W` = 32 in arithmetic: a time value as a number -/

theorem Time.toNat_lt (x : Time) : x.toNat < 2 ^ 32 := x.isLt

theorem Time.toNat_add (x y : Time) : (x + y).toNat = (x.toNat + y.toNat) % 2 ^ 32 := BitVec.toNat_add x y

theorem Time.toNat_sub (x y : Time) : (x - y).toNat = (x.toNat + 2 ^ 32 - y.toNat) % 2 ^ 32 := by
  have h : (x - y).toNat = (2 ^ 32 - y.toNat + x.toNat) % 2 ^ 32 := BitVec.toNat_sub x y
  rw [h, Nat.add_comm, ← Nat.add_sub_assoc (Nat.le_of_lt y.toNat_lt)]

theorem FtoCount.toNat_lt (c : FtoCount) : c.toNat < 2 ^ 32 := c.isLt

theorem FtoCount.toNat_add (c d : FtoCount) : (c + d).toNat = (c.toNat + d.toNat) % 2 ^ 32 := BitVec.toNat_add c d

end Sys2Proof
end

