-- ==== Sys2Proof/Laws/Decode.lean ====
section
/-! SUPPORT. The fields of a command word, and bytes as bits. -/

namespace Sys2Proof

/-- The opcode of `(op, arg)` is `op` (R86). -/
@[simp] theorem opField_commandWord (op : BitVec 8) (arg : Word) : opField (commandWord op arg) = op := by
  apply BitVec.eq_of_getLsbD_eq
  intro i hi
  simp only [opField, commandWord, BitVec.getLsbD_extractLsb', BitVec.getLsbD_append]
  simp [hi]

/-- The operand of `(op, arg)` is `arg` (R86). -/
@[simp] theorem argField_commandWord (op : BitVec 8) (arg : Word) : argField (commandWord op arg) = arg := by
  apply BitVec.eq_of_getLsbD_eq
  intro i hi
  simp only [argField, commandWord, BitVec.getLsbD_extractLsb', BitVec.getLsbD_append]
  simp [hi]

/-- A word is its two fields (R86). -/
theorem commandWord_fields (w : CmdWord) : commandWord (opField w) (argField w) = w := by
  apply BitVec.eq_of_getLsbD_eq
  intro i hi
  simp only [opField, argField, commandWord, BitVec.getLsbD_extractLsb', BitVec.getLsbD_append]
  by_cases h : i < 32
  · simp [h]
  · have h8 : i - 32 < 8 := by omega
    have : 32 + (i - 32) = i := by omega
    simp [h, h8, this]

/-- Eight bits, most significant first, and the byte they spell (R64). -/
theorem bitsByte_byteBits (v : Byte) : bitsByte (byteBits v) = v := by
  revert v; decide

@[simp] theorem byteBits_length (v : Byte) : (byteBits v).length = 8 := rfl

end Sys2Proof
end

