-- ==== Sys2Proof/Laws/Fifo.lean ====
section
/-! SUPPORT. What the queue operations do to the queued bits (41_bitfifo.md R121 to R127): `contents` is the list the
slots represent, and each operation is a list operation on it. -/

namespace Sys2Proof.Machine

@[simp] theorem BitFifo.contents_length (f : BitFifo) : f.contents.length = f.cnt.toNat := by
  simp [BitFifo.contents]

/-- A slot's number, with FIFO_CAP = 64 (R5, R21). -/
@[simp] theorem BitFifo.slot_val (f : BitFifo) (i : Nat) : (f.slot i).val = (f.rd.toNat + i) % 64 := rfl

theorem BitFifo.isEmpty_eq_true_iff (f : BitFifo) : f.isEmpty = true ↔ f.contents = [] := by
  rw [← List.length_eq_zero_iff]; simp [BitFifo.isEmpty]

theorem BitFifo.isFull_eq_true_iff (f : BitFifo) : f.isFull = true ↔ f.cnt.toNat = 64 := by
  simp only [BitFifo.isFull, decide_eq_true_eq]

theorem BitFifo.getElem_contents (f : BitFifo) (i : Nat) (h : i < f.contents.length) :
    f.contents[i] = f.mem[f.slot i] := by
  simp [BitFifo.contents]

/-- A push into a full queue changes nothing (R121). -/
theorem BitFifo.push_full (f : BitFifo) (b : Bool) (h : f.cnt.toNat = 64) : f.push b = (f, false) := by
  simp [BitFifo.push, (BitFifo.isFull_eq_true_iff f).2 h]

/-- A push into a queue with room appends the bit (R121, R126). -/
theorem BitFifo.push_room (f : BitFifo) (b : Bool) (h : f.cnt.toNat < 64) :
    (f.push b).2 = true ∧ (f.push b).1.contents = f.contents ++ [b] ∧ (f.push b).1.cnt.toNat = f.cnt.toNat + 1
      ∧ (f.push b).1.rd = f.rd := by
  have hf : f.isFull = false := by
    rw [Bool.eq_false_iff, ne_eq, BitFifo.isFull_eq_true_iff]; omega
  have hc : (f.cnt + 1).toNat = f.cnt.toNat + 1 := by
    rw [BitVec.toNat_add]; simp; omega
  have hp : (f.push b).1.cnt = f.cnt + 1 := by simp [BitFifo.push, hf]
  refine ⟨by simp [BitFifo.push, hf], ?_, by rw [hp, hc], by simp [BitFifo.push, hf]⟩
  apply List.ext_getElem
  · rw [BitFifo.contents_length, hp, hc]; simp
  · intro i h1 h2
    have hi : i < f.cnt.toNat + 1 := by
      rw [BitFifo.contents_length, hp, hc] at h1; exact h1
    rw [BitFifo.getElem_contents]
    simp only [BitFifo.push, hf, Bool.false_eq_true, if_false, Fin.getElem_fin, BitFifo.slot_val]
    rw [Vector.getElem_set]
    by_cases hlast : i = f.cnt.toNat
    · subst hlast
      simp
    · have hlt : i < f.cnt.toNat := by omega
      have hne : ¬ ((f.rd.toNat + f.cnt.toNat) % 64 = (f.rd.toNat + i) % 64) := by omega
      rw [if_neg hne, List.getElem_append_left (by simpa using hlt), BitFifo.getElem_contents]
      simp

/-- A pull from an empty queue gives no bit and changes nothing (R122). -/
theorem BitFifo.pull_empty (f : BitFifo) (h : f.contents = []) : f.pull = (none, f) := by
  simp [BitFifo.pull, (BitFifo.isEmpty_eq_true_iff f).2 h]

/-- A pull gives the oldest bit and leaves the others in order (R122, R126). -/
theorem BitFifo.pull_cons (f : BitFifo) (b : Bool) (bs : List Bool) (h : f.contents = b :: bs) :
    f.pull.1 = some b ∧ f.pull.2.contents = bs ∧ f.pull.2.cnt.toNat = f.cnt.toNat - 1 := by
  have hne : f.isEmpty = false := by
    rw [Bool.eq_false_iff, ne_eq, BitFifo.isEmpty_eq_true_iff]; simp [h]
  have hpos : 0 < f.cnt.toNat := by
    rw [← BitFifo.contents_length, h]; simp
  have hc : (f.cnt - 1).toNat = f.cnt.toNat - 1 := by
    rw [BitVec.toNat_sub]; simp; omega
  have hp : f.pull.2.cnt = f.cnt - 1 := by simp [BitFifo.pull, hne]
  have hget : ∀ i (hi : i < f.contents.length), f.contents[i] = (b :: bs)[i]'(by rw [← h]; exact hi) := by
    intro i hi; congr 1
  refine ⟨?_, ?_, by rw [hp, hc]⟩
  · have := hget 0 (by simpa using hpos)
    rw [BitFifo.getElem_contents] at this
    simpa [BitFifo.pull, hne] using this
  · have hlen : bs.length = f.cnt.toNat - 1 := by
      have := congrArg List.length h
      simp at this; omega
    apply List.ext_getElem
    · rw [BitFifo.contents_length, hp, hc, hlen]
    · intro i h1 h2
      have := hget (i + 1) (by simp; omega)
      rw [BitFifo.getElem_contents] at this
      rw [BitFifo.getElem_contents]
      simp only [List.getElem_cons_succ] at this
      rw [← this]
      simp only [BitFifo.pull, hne, Bool.false_eq_true, if_false, Fin.getElem_fin, BitFifo.slot_val]
      congr 1
      rw [BitVec.toNat_add]
      simp
      omega

/-- `push_seq` enqueues the bits that fit, in order, and is true iff all fitted (R127). -/
theorem BitFifo.pushSeq_contents (f : BitFifo) (bits : List Bool) (h : f.cnt.toNat ≤ 64) :
    (f.pushSeq bits).1.contents = f.contents ++ bits.take (64 - f.cnt.toNat)
      ∧ ((f.pushSeq bits).2 = true ↔ bits.length ≤ 64 - f.cnt.toNat)
      ∧ (f.pushSeq bits).1.rd = f.rd := by
  induction bits generalizing f with
  | nil => simp [BitFifo.pushSeq]
  | cons b bits ih =>
    by_cases hfull : f.cnt.toNat = 64
    · have hp := BitFifo.push_full f b hfull
      have := ih f h
      simp only [BitFifo.pushSeq, hp]
      simp only [hfull] at this ⊢
      simp_all
    · obtain ⟨h1, h2, h3, h4⟩ := BitFifo.push_room f b (by omega)
      obtain ⟨i1, i2, i3⟩ := ih (f.push b).1 (by omega)
      have hk : 64 - f.cnt.toNat = (64 - (f.push b).1.cnt.toNat) + 1 := by omega
      refine ⟨?_, ?_, ?_⟩
      · simp only [BitFifo.pushSeq]
        rw [i1, h2, hk, List.take_succ_cons]
        simp
      · simp only [BitFifo.pushSeq, h1, Bool.true_and, i2, hk, List.length_cons]
        omega
      · simp only [BitFifo.pushSeq]; rw [i3, h4]

/-- `push_seq` keeps the occupancy within 0 .. 64 (R23). -/
theorem BitFifo.pushSeq_cnt (f : BitFifo) (bits : List Bool) (h : f.cnt.toNat ≤ 64) :
    (f.pushSeq bits).1.cnt.toNat = min 64 (f.cnt.toNat + bits.length) := by
  have := congrArg List.length (BitFifo.pushSeq_contents f bits h).1
  simp at this
  omega

/-- `n` pulls give the `n` oldest bits, in order, and leave the rest (R165). -/
theorem BitFifo.pullSeq_contents (f : BitFifo) (n : Nat) :
    (f.pullSeq n).1 = f.contents.take n ∧ (f.pullSeq n).2.contents = f.contents.drop n := by
  induction n generalizing f with
  | zero => simp [BitFifo.pullSeq]
  | succ n ih =>
    cases hc : f.contents with
    | nil =>
      have := ih f
      simp [BitFifo.pullSeq, BitFifo.pull_empty f hc, hc] at this ⊢
      exact this
    | cons b bs =>
      obtain ⟨h1, h2, -⟩ := BitFifo.pull_cons f b bs hc
      have hp : f.pull = (some b, f.pull.2) := by rw [← h1]
      have := ih f.pull.2
      simp only [BitFifo.pullSeq]
      rw [hp]
      simp [this.1, this.2, h2]

theorem BitFifo.push_cnt_le (f : BitFifo) (b : Bool) (h : f.cnt.toNat ≤ 64) : (f.push b).1.cnt.toNat ≤ 64 := by
  by_cases hf : f.cnt.toNat = 64
  · simp [BitFifo.push_full f b hf, hf]
  · have := (BitFifo.push_room f b (by omega)).2.2.1; omega

theorem BitFifo.pull_cnt_le (f : BitFifo) (h : f.cnt.toNat ≤ 64) : f.pull.2.cnt.toNat ≤ 64 := by
  cases hc : f.contents with
  | nil => simpa [BitFifo.pull_empty f hc] using h
  | cons b bs => have := (BitFifo.pull_cons f b bs hc).2.2; omega

end Sys2Proof.Machine
end

