-- ==== Sys2Proof/Laws/Memory.lean ====
section
/-! SUPPORT. The frame buffer: a read after a write, and the canonical form that every write keeps. -/

namespace Sys2Proof.Machine

theorem Memory.read_write_same (m : Memory) (a : Nat) (v : Byte) : Memory.read (Memory.write m a v) a = some v := by
  induction m with
  | nil => simp [Memory.write, Memory.read]
  | cons c m ih =>
    obtain ⟨k, w⟩ := c
    simp only [Memory.write]
    split
    · simp [Memory.read]
    · split
      · simp [Memory.read]
      · next h => simp [Memory.read, Ne.symm h, ih]

theorem Memory.read_write_other (m : Memory) (a b : Nat) (v : Byte) (h : b ≠ a) :
    Memory.read (Memory.write m a v) b = Memory.read m b := by
  induction m with
  | nil => simp [Memory.write, Memory.read, Ne.symm h]
  | cons c m ih =>
    obtain ⟨k, w⟩ := c
    simp only [Memory.write]
    split
    · simp [Memory.read, Ne.symm h]
    · split
      · next hk => subst hk; simp [Memory.read, Ne.symm h]
      · simp [Memory.read, ih]

@[simp] theorem Memory.byte_write_same (n : Nat) (m : Memory) (a : Nat) (v : Byte) :
    Memory.byte n (Memory.write m a v) a = v := by
  simp [Memory.byte, Memory.read_write_same]

theorem Memory.byte_write_other (n : Nat) (m : Memory) (a b : Nat) (v : Byte) (h : b ≠ a) :
    Memory.byte n (Memory.write m a v) b = Memory.byte n m b := by
  simp [Memory.byte, Memory.read_write_other m a b v h]

/-- A byte reads alike in two states with one frame buffer and one power-on contents number. -/
theorem State.fbByte_congr (s t : State) (h : t.fb = s.fb) (hp : t.fbPower = s.fbPower) (a : Nat) :
    t.fbByte a = s.fbByte a := by
  rw [State.fbByte, State.fbByte, h, hp]

/-- A byte that was written reads as written, whatever the power-on contents (R186, R205). -/
theorem State.fbByte_of_read (s : State) (a : Nat) (v : Byte) (h : Memory.read s.fb a = some v) : s.fbByte a = v := by
  simp [State.fbByte, Memory.byte, h]

/-- A byte nothing has written reads as the power-on value of this instance (V1). -/
theorem State.fbByte_unwritten (s : State) (a : Nat) (h : Memory.read s.fb a = none) :
    s.fbByte a = Config.powerOnByte s.fbPower a := by
  simp [State.fbByte, Memory.byte, h]

theorem Memory.rising_cons (c : Host.Cell) (m : Memory) :
    Memory.rising (c :: m) = true ↔ (∀ d, m.head? = some d → c.1 < d.1) ∧ Memory.rising m = true := by
  cases m with
  | nil => simp [Memory.rising]
  | cons d m => simp [Memory.rising]

theorem Memory.head_write (m : Memory) (a : Nat) (v : Byte) (d : Host.Cell)
    (h : (Memory.write m a v).head? = some d) : d.1 = a ∨ ∃ c, m.head? = some c ∧ d.1 = c.1 := by
  cases m with
  | nil => simp [Memory.write] at h; simp [← h]
  | cons c m =>
    obtain ⟨k, w⟩ := c
    simp only [Memory.write] at h
    split at h
    · simp at h; simp [← h]
    · split at h <;> simp at h <;> simp [← h]

/-- A write keeps the addresses strictly rising. -/
theorem Memory.rising_write (m : Memory) (a : Nat) (v : Byte) (h : Memory.rising m = true) :
    Memory.rising (Memory.write m a v) = true := by
  induction m with
  | nil => simp [Memory.write, Memory.rising]
  | cons c m ih =>
    obtain ⟨k, w⟩ := c
    have hc := (Memory.rising_cons _ _).1 h
    simp only [Memory.write]
    split
    · next hak => exact (Memory.rising_cons _ _).2 ⟨by simp [hak], h⟩
    · split
      · next hk => subst hk; exact (Memory.rising_cons _ _).2 hc
      · next h1 h2 =>
        refine (Memory.rising_cons _ _).2 ⟨fun d hd => ?_, ih hc.2⟩
        rcases Memory.head_write m a v d hd with h3 | ⟨e, he, h3⟩
        · simp only [h3]; omega
        · rw [h3]; exact hc.1 e he

theorem Memory.all_write (m : Memory) (a : Nat) (v : Byte) (q : Host.Cell → Bool) (h : m.all q = true)
    (ha : q (a, v) = true) : (Memory.write m a v).all q = true := by
  induction m with
  | nil => simp [Memory.write, ha]
  | cons c m ih =>
    obtain ⟨k, w⟩ := c
    simp only [List.all_cons, Bool.and_eq_true] at h
    simp only [Memory.write]
    split
    · simp only [List.all_cons, ha, h.1, h.2, Bool.and_self]
    · split
      · simp only [List.all_cons, ha, h.2, Bool.and_self]
      · simp only [List.all_cons, h.1, ih h.2, Bool.and_self]

/-- Every write inside the index space keeps the canonical form (R60, R61). -/
theorem Memory.wf_write (m : Memory) (a : Nat) (v : Byte) (h : Memory.wf m = true) (ha : a < Config.fbMax) :
    Memory.wf (Memory.write m a v) = true := by
  simp only [Memory.wf, Bool.and_eq_true] at h ⊢
  exact ⟨Memory.rising_write m a v h.1, Memory.all_write m a v _ h.2 (by simpa using ha)⟩

theorem Memory.wf_reset (p : Params) : Memory.wf (State.resetWith p).fb = true := rfl

end Sys2Proof.Machine
end

