-- ==== Sys2Proof/Laws/PerInstr.lean ====
section
/-! SUPPORT. The family TableRow: the code of every well-formed instruction matches the row of spec/opcode_table.json
its mnemonic names (match and mask over the 40-bit word, or the pattern of the wire rows). -/

namespace Sys2Proof.Laws

/-- A row of spec/opcode_table.json. -/
inductive Row where
  /-- `match` and `mask` of a command row. -/
  | command (value mask : CmdWord)
  /-- `encoding` of a wire row, first bit on the wire first; none where the pattern has a `d`. -/
  | wire (pattern : List (Option Bool))

/-- The rows, transcribed from spec/opcode_table.json. -/
def row : Instr → Row
  | .nop => .command 0x0000000000#40 0xFFFFFFFFFF#40
  | .sendbit _ => .command 0x1000000000#40 0xFFFFFFFFFE#40
  | .sendbyte _ => .command 0x1100000000#40 0xFFFFFFFF00#40
  | .hasdata _ => .command 0x1200000000#40 0xFFFFFFFF00#40
  | .recvbit => .command 0x1300000000#40 0xFFFFFFFFFF#40
  | .recvbyte => .command 0x1400000000#40 0xFFFFFFFFFF#40
  | .pulse _ _ => .command 0x1500000000#40 0xFF00000000#40
  | .setinit _ => .command 0x1600000000#40 0xFFFFFFFFFE#40
  | .setidle _ => .command 0x1700000000#40 0xFF00000000#40
  | .hsclr => .command 0x1800000000#40 0xFFFFFFFFFF#40
  | .begin_ _ => .command 0x2000000000#40 0xFFFFFF0000#40
  | .sendsf _ => .command 0x2100000000#40 0xFFFFFFFF00#40
  | .fcomplete => .command 0x2200000000#40 0xFFFFFFFFFF#40
  | .getframe => .command 0x2300000000#40 0xFFFFFFFFFF#40
  | .resetframe => .command 0x2400000000#40 0xFFFFFFFFFF#40
  | .fbread _ => .command 0x2500000000#40 0xFFFFFF0000#40
  | .ftodet => .command 0x2600000000#40 0xFFFFFFFFFF#40
  | .ftocnt => .command 0x2700000000#40 0xFFFFFFFFFF#40
  | .ftoreset => .command 0x2800000000#40 0xFFFFFFFFFF#40
  | .status => .command 0x3000000000#40 0xFFFFFFFFFF#40
  | .fstatus => .command 0x3100000000#40 0xFFFFFFFFFF#40
  | .subframe _ => .wire [some true, none, none, none, none, none, none, none, none]
  | .syncbit => .wire [some false]
  | .rawbyte _ => .wire [none, none, none, none, none, none, none, none]

/-- A code lies in a row. -/
def inRow : Code → Row → Bool
  | .command w, .command value mask => decide (w &&& mask = value)
  | .wire bits, .wire pattern => decide (bits.length = pattern.length) && (bits.zip pattern).all fun c => c.2 = none || c.2 = some c.1
  | .command _, .wire _ => false
  | .wire _, .command _ _ => false

/-- The code of a well-formed instruction lies in its row. -/
def TableRow.Statement (i : Instr) : Prop := i.wf = true → inRow (encode i) (row i) = true

/-- A word whose operand has no bit in the reserved part `m` matches its opcode's row. -/
theorem command_in_row (op : BitVec 8) (arg m : Word) (h : arg &&& m = 0) :
    inRow (.command (commandWord op arg)) (.command (commandWord op 0) (commandWord 0xFF#8 m)) = true := by
  have hop : op &&& 0xFF#8 = op := by revert op; decide
  have key : (op ++ arg) &&& (0xFF#8 ++ m) = op ++ (0 : Word) := by rw [BitVec.and_append, h, hop]
  exact decide_eq_true key

theorem ofNat_and_high (n k : Nat) (h : n < 2 ^ k) (m : Word) (hm : ∀ i, i < k → m.getLsbD i = false) :
    BitVec.ofNat 32 n &&& m = 0 := by
  apply BitVec.eq_of_getLsbD_eq
  intro i hi
  rw [BitVec.getLsbD_and, BitVec.getLsbD_ofNat]
  by_cases hk : i < k
  · simp [hm i hk]
  · have : n.testBit i = false :=
      Nat.testBit_lt_two_pow (Nat.lt_of_lt_of_le h (Nat.pow_le_pow_right (by decide) (by omega)))
    simp [this]

theorem byte_and_high (v : Byte) : v.setWidth 32 &&& 0xFFFFFF00#32 = 0 := by revert v; decide

theorem bool_and_high (b : Bool) : (BitVec.ofBool b).setWidth 32 &&& 0xFFFFFFFE#32 = 0 := by revert b; decide

theorem TableRow.nop : TableRow.Statement .nop := fun _ => by decide
theorem TableRow.sendbit (b : Bool) : TableRow.Statement (.sendbit b) := fun _ =>
  command_in_row 0x10#8 _ 0xFFFFFFFE#32 (bool_and_high b)
theorem TableRow.sendbyte (v : Byte) : TableRow.Statement (.sendbyte v) := fun _ =>
  command_in_row 0x11#8 _ 0xFFFFFF00#32 (byte_and_high v)
theorem TableRow.hasdata (n : Nat) : TableRow.Statement (.hasdata n) := fun h =>
  command_in_row 0x12#8 _ 0xFFFFFF00#32 (ofNat_and_high n 8 (of_decide_eq_true h) _ (by decide))
theorem TableRow.recvbit : TableRow.Statement .recvbit := fun _ => by decide
theorem TableRow.recvbyte : TableRow.Statement .recvbyte := fun _ => by decide
theorem TableRow.pulse (dur : Nat) (final : Bool) : TableRow.Statement (.pulse dur final) := fun _ =>
  command_in_row 0x15#8 _ 0#32 (BitVec.and_zero)
theorem TableRow.setinit (b : Bool) : TableRow.Statement (.setinit b) := fun _ =>
  command_in_row 0x16#8 _ 0xFFFFFFFE#32 (bool_and_high b)
theorem TableRow.setidle (t : Nat) : TableRow.Statement (.setidle t) := fun _ =>
  command_in_row 0x17#8 _ 0#32 (BitVec.and_zero)
theorem TableRow.hsclr : TableRow.Statement .hsclr := fun _ => by decide
theorem TableRow.begin_ (len : Nat) : TableRow.Statement (.begin_ len) := fun h =>
  command_in_row 0x20#8 _ 0xFFFF0000#32 (ofNat_and_high len 16 (of_decide_eq_true h) _ (by decide))
theorem TableRow.sendsf (v : Byte) : TableRow.Statement (.sendsf v) := fun _ =>
  command_in_row 0x21#8 _ 0xFFFFFF00#32 (byte_and_high v)
theorem TableRow.fcomplete : TableRow.Statement .fcomplete := fun _ => by decide
theorem TableRow.getframe : TableRow.Statement .getframe := fun _ => by decide
theorem TableRow.resetframe : TableRow.Statement .resetframe := fun _ => by decide
theorem TableRow.fbread (idx : Nat) : TableRow.Statement (.fbread idx) := fun h =>
  command_in_row 0x25#8 _ 0xFFFF0000#32 (ofNat_and_high idx 16 (of_decide_eq_true h) _ (by decide))
theorem TableRow.ftodet : TableRow.Statement .ftodet := fun _ => by decide
theorem TableRow.ftocnt : TableRow.Statement .ftocnt := fun _ => by decide
theorem TableRow.ftoreset : TableRow.Statement .ftoreset := fun _ => by decide
theorem TableRow.status : TableRow.Statement .status := fun _ => by decide
theorem TableRow.fstatus : TableRow.Statement .fstatus := fun _ => by decide
theorem TableRow.subframe (d : Byte) : TableRow.Statement (.subframe d) := fun _ => rfl
theorem TableRow.syncbit : TableRow.Statement .syncbit := fun _ => by decide
theorem TableRow.rawbyte (d : Byte) : TableRow.Statement (.rawbyte d) := fun _ => rfl

end Sys2Proof.Laws
end

