-- ==== Sys2Proof/Laws/State.lean ====
section
/-! SUPPORT. One lemma per field for each update that is a plain record update, all true by rfl. -/

namespace Sys2Proof.Machine

/-! ## `respond` -/

@[simp] theorem respond_ib (c : RespCode) (d : Word) (s : State) : (respond c d s).ib = s.ib := rfl
@[simp] theorem respond_ob (c : RespCode) (d : Word) (s : State) : (respond c d s).ob = s.ob := rfl
@[simp] theorem respond_chState (c : RespCode) (d : Word) (s : State) : (respond c d s).chState = s.chState := rfl
@[simp] theorem respond_selfInit (c : RespCode) (d : Word) (s : State) : (respond c d s).selfInit = s.selfInit := rfl
@[simp] theorem respond_frameEnd (c : RespCode) (d : Word) (s : State) : (respond c d s).frameEnd = s.frameEnd := rfl
@[simp] theorem respond_edgeFlag (c : RespCode) (d : Word) (s : State) : (respond c d s).edgeFlag = s.edgeFlag := rfl
@[simp] theorem respond_hsErr (c : RespCode) (d : Word) (s : State) : (respond c d s).hsErr = s.hsErr := rfl
@[simp] theorem respond_tLast (c : RespCode) (d : Word) (s : State) : (respond c d s).tLast = s.tLast := rfl
@[simp] theorem respond_rxQ (c : RespCode) (d : Word) (s : State) : (respond c d s).rxQ = s.rxQ := rfl
@[simp] theorem respond_tx (c : RespCode) (d : Word) (s : State) : (respond c d s).tx = s.tx := rfl
@[simp] theorem respond_pulseCnt (c : RespCode) (d : Word) (s : State) : (respond c d s).pulseCnt = s.pulseCnt := rfl
@[simp] theorem respond_pulseFinal (c : RespCode) (d : Word) (s : State) : (respond c d s).pulseFinal = s.pulseFinal := rfl
@[simp] theorem respond_canInit (c : RespCode) (d : Word) (s : State) : (respond c d s).canInit = s.canInit := rfl
@[simp] theorem respond_idleTo (c : RespCode) (d : Word) (s : State) : (respond c d s).idleTo = s.idleTo := rfl
@[simp] theorem respond_fcEn (c : RespCode) (d : Word) (s : State) : (respond c d s).fcEn = s.fcEn := rfl
@[simp] theorem respond_fcState (c : RespCode) (d : Word) (s : State) : (respond c d s).fcState = s.fcState := rfl
@[simp] theorem respond_fbLen (c : RespCode) (d : Word) (s : State) : (respond c d s).fbLen = s.fbLen := rfl
@[simp] theorem respond_fbIdx (c : RespCode) (d : Word) (s : State) : (respond c d s).fbIdx = s.fbIdx := rfl
@[simp] theorem respond_inSub (c : RespCode) (d : Word) (s : State) : (respond c d s).inSub = s.inSub := rfl
@[simp] theorem respond_acc (c : RespCode) (d : Word) (s : State) : (respond c d s).acc = s.acc := rfl
@[simp] theorem respond_bitcnt (c : RespCode) (d : Word) (s : State) : (respond c d s).bitcnt = s.bitcnt := rfl
@[simp] theorem respond_ftoCnt (c : RespCode) (d : Word) (s : State) : (respond c d s).ftoCnt = s.ftoCnt := rfl
@[simp] theorem respond_fb (c : RespCode) (d : Word) (s : State) : (respond c d s).fb = s.fb := rfl
@[simp] theorem respond_fbPower (c : RespCode) (d : Word) (s : State) : (respond c d s).fbPower = s.fbPower := rfl
@[simp] theorem respond_now (c : RespCode) (d : Word) (s : State) : (respond c d s).now = s.now := rfl
@[simp] theorem respond_pulseBusy (c : RespCode) (d : Word) (s : State) : (respond c d s).pulseBusy = s.pulseBusy := rfl
@[simp] theorem respond_respCode (c : RespCode) (d : Word) (s : State) : (respond c d s).respCode = c := rfl
@[simp] theorem respond_respData (c : RespCode) (d : Word) (s : State) : (respond c d s).respData = d := rfl
@[simp] theorem respond_inputs (c : RespCode) (d : Word) (s : State) : (respond c d s).inputs = s.inputs := rfl
@[simp] theorem respond_envIdx (c : RespCode) (d : Word) (s : State) : (respond c d s).envIdx = s.envIdx := rfl

/-! ## `edgeCapture` -/

@[simp] theorem edgeCapture_ib (rx : Bool) (s : State) : (edgeCapture rx s).ib = s.ib := rfl
@[simp] theorem edgeCapture_ob (rx : Bool) (s : State) : (edgeCapture rx s).ob = s.ob := rfl
@[simp] theorem edgeCapture_chState (rx : Bool) (s : State) : (edgeCapture rx s).chState = s.chState := rfl
@[simp] theorem edgeCapture_selfInit (rx : Bool) (s : State) : (edgeCapture rx s).selfInit = s.selfInit := rfl
@[simp] theorem edgeCapture_frameEnd (rx : Bool) (s : State) : (edgeCapture rx s).frameEnd = s.frameEnd := rfl
@[simp] theorem edgeCapture_edgeFlag (rx : Bool) (s : State) : (edgeCapture rx s).edgeFlag = (s.edgeFlag || (rx && !s.rxQ)) := rfl
@[simp] theorem edgeCapture_hsErr (rx : Bool) (s : State) : (edgeCapture rx s).hsErr = s.hsErr := rfl
@[simp] theorem edgeCapture_tLast (rx : Bool) (s : State) : (edgeCapture rx s).tLast = s.tLast := rfl
@[simp] theorem edgeCapture_rxQ (rx : Bool) (s : State) : (edgeCapture rx s).rxQ = rx := rfl
@[simp] theorem edgeCapture_tx (rx : Bool) (s : State) : (edgeCapture rx s).tx = s.tx := rfl
@[simp] theorem edgeCapture_pulseCnt (rx : Bool) (s : State) : (edgeCapture rx s).pulseCnt = s.pulseCnt := rfl
@[simp] theorem edgeCapture_pulseFinal (rx : Bool) (s : State) : (edgeCapture rx s).pulseFinal = s.pulseFinal := rfl
@[simp] theorem edgeCapture_canInit (rx : Bool) (s : State) : (edgeCapture rx s).canInit = s.canInit := rfl
@[simp] theorem edgeCapture_idleTo (rx : Bool) (s : State) : (edgeCapture rx s).idleTo = s.idleTo := rfl
@[simp] theorem edgeCapture_fcEn (rx : Bool) (s : State) : (edgeCapture rx s).fcEn = s.fcEn := rfl
@[simp] theorem edgeCapture_fcState (rx : Bool) (s : State) : (edgeCapture rx s).fcState = s.fcState := rfl
@[simp] theorem edgeCapture_fbLen (rx : Bool) (s : State) : (edgeCapture rx s).fbLen = s.fbLen := rfl
@[simp] theorem edgeCapture_fbIdx (rx : Bool) (s : State) : (edgeCapture rx s).fbIdx = s.fbIdx := rfl
@[simp] theorem edgeCapture_inSub (rx : Bool) (s : State) : (edgeCapture rx s).inSub = s.inSub := rfl
@[simp] theorem edgeCapture_acc (rx : Bool) (s : State) : (edgeCapture rx s).acc = s.acc := rfl
@[simp] theorem edgeCapture_bitcnt (rx : Bool) (s : State) : (edgeCapture rx s).bitcnt = s.bitcnt := rfl
@[simp] theorem edgeCapture_ftoCnt (rx : Bool) (s : State) : (edgeCapture rx s).ftoCnt = s.ftoCnt := rfl
@[simp] theorem edgeCapture_fb (rx : Bool) (s : State) : (edgeCapture rx s).fb = s.fb := rfl
@[simp] theorem edgeCapture_fbPower (rx : Bool) (s : State) : (edgeCapture rx s).fbPower = s.fbPower := rfl
@[simp] theorem edgeCapture_now (rx : Bool) (s : State) : (edgeCapture rx s).now = s.now := rfl
@[simp] theorem edgeCapture_pulseBusy (rx : Bool) (s : State) : (edgeCapture rx s).pulseBusy = s.pulseBusy := rfl
@[simp] theorem edgeCapture_respCode (rx : Bool) (s : State) : (edgeCapture rx s).respCode = s.respCode := rfl
@[simp] theorem edgeCapture_respData (rx : Bool) (s : State) : (edgeCapture rx s).respData = s.respData := rfl
@[simp] theorem edgeCapture_inputs (rx : Bool) (s : State) : (edgeCapture rx s).inputs = s.inputs := rfl
@[simp] theorem edgeCapture_envIdx (rx : Bool) (s : State) : (edgeCapture rx s).envIdx = s.envIdx := rfl

/-! ## `timePhase` -/

@[simp] theorem timePhase_ib (s : State) : (timePhase s).ib = s.ib := rfl
@[simp] theorem timePhase_ob (s : State) : (timePhase s).ob = s.ob := rfl
@[simp] theorem timePhase_chState (s : State) : (timePhase s).chState = s.chState := rfl
@[simp] theorem timePhase_selfInit (s : State) : (timePhase s).selfInit = s.selfInit := rfl
@[simp] theorem timePhase_frameEnd (s : State) : (timePhase s).frameEnd = s.frameEnd := rfl
@[simp] theorem timePhase_edgeFlag (s : State) : (timePhase s).edgeFlag = s.edgeFlag := rfl
@[simp] theorem timePhase_hsErr (s : State) : (timePhase s).hsErr = s.hsErr := rfl
@[simp] theorem timePhase_tLast (s : State) : (timePhase s).tLast = s.tLast := rfl
@[simp] theorem timePhase_rxQ (s : State) : (timePhase s).rxQ = s.rxQ := rfl
@[simp] theorem timePhase_tx (s : State) : (timePhase s).tx = s.tx := rfl
@[simp] theorem timePhase_pulseCnt (s : State) : (timePhase s).pulseCnt = s.pulseCnt := rfl
@[simp] theorem timePhase_pulseFinal (s : State) : (timePhase s).pulseFinal = s.pulseFinal := rfl
@[simp] theorem timePhase_canInit (s : State) : (timePhase s).canInit = s.canInit := rfl
@[simp] theorem timePhase_idleTo (s : State) : (timePhase s).idleTo = s.idleTo := rfl
@[simp] theorem timePhase_fcEn (s : State) : (timePhase s).fcEn = s.fcEn := rfl
@[simp] theorem timePhase_fcState (s : State) : (timePhase s).fcState = s.fcState := rfl
@[simp] theorem timePhase_fbLen (s : State) : (timePhase s).fbLen = s.fbLen := rfl
@[simp] theorem timePhase_fbIdx (s : State) : (timePhase s).fbIdx = s.fbIdx := rfl
@[simp] theorem timePhase_inSub (s : State) : (timePhase s).inSub = s.inSub := rfl
@[simp] theorem timePhase_acc (s : State) : (timePhase s).acc = s.acc := rfl
@[simp] theorem timePhase_bitcnt (s : State) : (timePhase s).bitcnt = s.bitcnt := rfl
@[simp] theorem timePhase_ftoCnt (s : State) : (timePhase s).ftoCnt = s.ftoCnt := rfl
@[simp] theorem timePhase_fb (s : State) : (timePhase s).fb = s.fb := rfl
@[simp] theorem timePhase_fbPower (s : State) : (timePhase s).fbPower = s.fbPower := rfl
@[simp] theorem timePhase_now (s : State) : (timePhase s).now = s.now + 1 := rfl
@[simp] theorem timePhase_pulseBusy (s : State) : (timePhase s).pulseBusy = s.pulseBusy := rfl
@[simp] theorem timePhase_respCode (s : State) : (timePhase s).respCode = s.respCode := rfl
@[simp] theorem timePhase_respData (s : State) : (timePhase s).respData = s.respData := rfl
@[simp] theorem timePhase_inputs (s : State) : (timePhase s).inputs = s.inputs := rfl
@[simp] theorem timePhase_envIdx (s : State) : (timePhase s).envIdx = s.envIdx := rfl

/-! ## `acceptSession` -/

@[simp] theorem acceptSession_ib (s : State) : (acceptSession s).ib = s.ib := rfl
@[simp] theorem acceptSession_ob (s : State) : (acceptSession s).ob = s.ob := rfl
@[simp] theorem acceptSession_chState (s : State) : (acceptSession s).chState = .awaitSample := rfl
@[simp] theorem acceptSession_selfInit (s : State) : (acceptSession s).selfInit = false := rfl
@[simp] theorem acceptSession_frameEnd (s : State) : (acceptSession s).frameEnd = false := rfl
@[simp] theorem acceptSession_edgeFlag (s : State) : (acceptSession s).edgeFlag = false := rfl
@[simp] theorem acceptSession_hsErr (s : State) : (acceptSession s).hsErr = s.hsErr := rfl
@[simp] theorem acceptSession_tLast (s : State) : (acceptSession s).tLast = s.now := rfl
@[simp] theorem acceptSession_rxQ (s : State) : (acceptSession s).rxQ = s.rxQ := rfl
@[simp] theorem acceptSession_tx (s : State) : (acceptSession s).tx = s.tx := rfl
@[simp] theorem acceptSession_pulseCnt (s : State) : (acceptSession s).pulseCnt = s.pulseCnt := rfl
@[simp] theorem acceptSession_pulseFinal (s : State) : (acceptSession s).pulseFinal = s.pulseFinal := rfl
@[simp] theorem acceptSession_canInit (s : State) : (acceptSession s).canInit = s.canInit := rfl
@[simp] theorem acceptSession_idleTo (s : State) : (acceptSession s).idleTo = s.idleTo := rfl
@[simp] theorem acceptSession_fcEn (s : State) : (acceptSession s).fcEn = s.fcEn := rfl
@[simp] theorem acceptSession_fcState (s : State) : (acceptSession s).fcState = s.fcState := rfl
@[simp] theorem acceptSession_fbLen (s : State) : (acceptSession s).fbLen = s.fbLen := rfl
@[simp] theorem acceptSession_fbIdx (s : State) : (acceptSession s).fbIdx = s.fbIdx := rfl
@[simp] theorem acceptSession_inSub (s : State) : (acceptSession s).inSub = s.inSub := rfl
@[simp] theorem acceptSession_acc (s : State) : (acceptSession s).acc = s.acc := rfl
@[simp] theorem acceptSession_bitcnt (s : State) : (acceptSession s).bitcnt = s.bitcnt := rfl
@[simp] theorem acceptSession_ftoCnt (s : State) : (acceptSession s).ftoCnt = s.ftoCnt := rfl
@[simp] theorem acceptSession_fb (s : State) : (acceptSession s).fb = s.fb := rfl
@[simp] theorem acceptSession_fbPower (s : State) : (acceptSession s).fbPower = s.fbPower := rfl
@[simp] theorem acceptSession_now (s : State) : (acceptSession s).now = s.now := rfl
@[simp] theorem acceptSession_pulseBusy (s : State) : (acceptSession s).pulseBusy = s.pulseBusy := rfl
@[simp] theorem acceptSession_respCode (s : State) : (acceptSession s).respCode = s.respCode := rfl
@[simp] theorem acceptSession_respData (s : State) : (acceptSession s).respData = s.respData := rfl
@[simp] theorem acceptSession_inputs (s : State) : (acceptSession s).inputs = s.inputs := rfl
@[simp] theorem acceptSession_envIdx (s : State) : (acceptSession s).envIdx = s.envIdx := rfl

/-! ## `sampleBit` -/

@[simp] theorem sampleBit_ib (s : State) : (sampleBit s).ib = (s.ib.push s.rxQ).1 := rfl
@[simp] theorem sampleBit_ob (s : State) : (sampleBit s).ob = s.ob := rfl
@[simp] theorem sampleBit_chState (s : State) : (sampleBit s).chState = s.chState := rfl
@[simp] theorem sampleBit_selfInit (s : State) : (sampleBit s).selfInit = s.selfInit := rfl
@[simp] theorem sampleBit_frameEnd (s : State) : (sampleBit s).frameEnd = s.frameEnd := rfl
@[simp] theorem sampleBit_edgeFlag (s : State) : (sampleBit s).edgeFlag = s.edgeFlag := rfl
@[simp] theorem sampleBit_hsErr (s : State) : (sampleBit s).hsErr = s.hsErr := rfl
@[simp] theorem sampleBit_tLast (s : State) : (sampleBit s).tLast = s.now := rfl
@[simp] theorem sampleBit_rxQ (s : State) : (sampleBit s).rxQ = s.rxQ := rfl
@[simp] theorem sampleBit_tx (s : State) : (sampleBit s).tx = s.tx := rfl
@[simp] theorem sampleBit_pulseCnt (s : State) : (sampleBit s).pulseCnt = s.pulseCnt := rfl
@[simp] theorem sampleBit_pulseFinal (s : State) : (sampleBit s).pulseFinal = s.pulseFinal := rfl
@[simp] theorem sampleBit_canInit (s : State) : (sampleBit s).canInit = s.canInit := rfl
@[simp] theorem sampleBit_idleTo (s : State) : (sampleBit s).idleTo = s.idleTo := rfl
@[simp] theorem sampleBit_fcEn (s : State) : (sampleBit s).fcEn = s.fcEn := rfl
@[simp] theorem sampleBit_fcState (s : State) : (sampleBit s).fcState = s.fcState := rfl
@[simp] theorem sampleBit_fbLen (s : State) : (sampleBit s).fbLen = s.fbLen := rfl
@[simp] theorem sampleBit_fbIdx (s : State) : (sampleBit s).fbIdx = s.fbIdx := rfl
@[simp] theorem sampleBit_inSub (s : State) : (sampleBit s).inSub = s.inSub := rfl
@[simp] theorem sampleBit_acc (s : State) : (sampleBit s).acc = s.acc := rfl
@[simp] theorem sampleBit_bitcnt (s : State) : (sampleBit s).bitcnt = s.bitcnt := rfl
@[simp] theorem sampleBit_ftoCnt (s : State) : (sampleBit s).ftoCnt = s.ftoCnt := rfl
@[simp] theorem sampleBit_fb (s : State) : (sampleBit s).fb = s.fb := rfl
@[simp] theorem sampleBit_fbPower (s : State) : (sampleBit s).fbPower = s.fbPower := rfl
@[simp] theorem sampleBit_now (s : State) : (sampleBit s).now = s.now := rfl
@[simp] theorem sampleBit_pulseBusy (s : State) : (sampleBit s).pulseBusy = s.pulseBusy := rfl
@[simp] theorem sampleBit_respCode (s : State) : (sampleBit s).respCode = s.respCode := rfl
@[simp] theorem sampleBit_respData (s : State) : (sampleBit s).respData = s.respData := rfl
@[simp] theorem sampleBit_inputs (s : State) : (sampleBit s).inputs = s.inputs := rfl
@[simp] theorem sampleBit_envIdx (s : State) : (sampleBit s).envIdx = s.envIdx := rfl

/-! ## `drainBit` -/

@[simp] theorem drainBit_ib (s : State) : (drainBit s).ib = s.ib.pull.2 := rfl
@[simp] theorem drainBit_ob (s : State) : (drainBit s).ob = s.ob := rfl
@[simp] theorem drainBit_chState (s : State) : (drainBit s).chState = s.chState := rfl
@[simp] theorem drainBit_selfInit (s : State) : (drainBit s).selfInit = s.selfInit := rfl
@[simp] theorem drainBit_frameEnd (s : State) : (drainBit s).frameEnd = s.frameEnd := rfl
@[simp] theorem drainBit_edgeFlag (s : State) : (drainBit s).edgeFlag = s.edgeFlag := rfl
@[simp] theorem drainBit_hsErr (s : State) : (drainBit s).hsErr = s.hsErr := rfl
@[simp] theorem drainBit_tLast (s : State) : (drainBit s).tLast = s.tLast := rfl
@[simp] theorem drainBit_rxQ (s : State) : (drainBit s).rxQ = s.rxQ := rfl
@[simp] theorem drainBit_tx (s : State) : (drainBit s).tx = s.tx := rfl
@[simp] theorem drainBit_pulseCnt (s : State) : (drainBit s).pulseCnt = s.pulseCnt := rfl
@[simp] theorem drainBit_pulseFinal (s : State) : (drainBit s).pulseFinal = s.pulseFinal := rfl
@[simp] theorem drainBit_canInit (s : State) : (drainBit s).canInit = s.canInit := rfl
@[simp] theorem drainBit_idleTo (s : State) : (drainBit s).idleTo = s.idleTo := rfl
@[simp] theorem drainBit_fcEn (s : State) : (drainBit s).fcEn = s.fcEn := rfl
@[simp] theorem drainBit_fcState (s : State) : (drainBit s).fcState = s.fcState := rfl
@[simp] theorem drainBit_fbLen (s : State) : (drainBit s).fbLen = s.fbLen := rfl
@[simp] theorem drainBit_fbIdx (s : State) : (drainBit s).fbIdx = s.fbIdx := rfl
@[simp] theorem drainBit_inSub (s : State) : (drainBit s).inSub = s.inSub := rfl
@[simp] theorem drainBit_acc (s : State) : (drainBit s).acc = s.acc := rfl
@[simp] theorem drainBit_bitcnt (s : State) : (drainBit s).bitcnt = s.bitcnt := rfl
@[simp] theorem drainBit_ftoCnt (s : State) : (drainBit s).ftoCnt = s.ftoCnt := rfl
@[simp] theorem drainBit_fb (s : State) : (drainBit s).fb = s.fb := rfl
@[simp] theorem drainBit_fbPower (s : State) : (drainBit s).fbPower = s.fbPower := rfl
@[simp] theorem drainBit_now (s : State) : (drainBit s).now = s.now := rfl
@[simp] theorem drainBit_pulseBusy (s : State) : (drainBit s).pulseBusy = s.pulseBusy := rfl
@[simp] theorem drainBit_respCode (s : State) : (drainBit s).respCode = s.respCode := rfl
@[simp] theorem drainBit_respData (s : State) : (drainBit s).respData = s.respData := rfl
@[simp] theorem drainBit_inputs (s : State) : (drainBit s).inputs = s.inputs := rfl
@[simp] theorem drainBit_envIdx (s : State) : (drainBit s).envIdx = s.envIdx := rfl

/-! ## `resynchronise` -/

@[simp] theorem resynchronise_ib (s : State) : (resynchronise s).ib = s.ib := rfl
@[simp] theorem resynchronise_ob (s : State) : (resynchronise s).ob = s.ob := rfl
@[simp] theorem resynchronise_chState (s : State) : (resynchronise s).chState = s.chState := rfl
@[simp] theorem resynchronise_selfInit (s : State) : (resynchronise s).selfInit = s.selfInit := rfl
@[simp] theorem resynchronise_frameEnd (s : State) : (resynchronise s).frameEnd = s.frameEnd := rfl
@[simp] theorem resynchronise_edgeFlag (s : State) : (resynchronise s).edgeFlag = s.edgeFlag := rfl
@[simp] theorem resynchronise_hsErr (s : State) : (resynchronise s).hsErr = s.hsErr := rfl
@[simp] theorem resynchronise_tLast (s : State) : (resynchronise s).tLast = s.tLast := rfl
@[simp] theorem resynchronise_rxQ (s : State) : (resynchronise s).rxQ = s.rxQ := rfl
@[simp] theorem resynchronise_tx (s : State) : (resynchronise s).tx = s.tx := rfl
@[simp] theorem resynchronise_pulseCnt (s : State) : (resynchronise s).pulseCnt = s.pulseCnt := rfl
@[simp] theorem resynchronise_pulseFinal (s : State) : (resynchronise s).pulseFinal = s.pulseFinal := rfl
@[simp] theorem resynchronise_canInit (s : State) : (resynchronise s).canInit = s.canInit := rfl
@[simp] theorem resynchronise_idleTo (s : State) : (resynchronise s).idleTo = s.idleTo := rfl
@[simp] theorem resynchronise_fcEn (s : State) : (resynchronise s).fcEn = s.fcEn := rfl
@[simp] theorem resynchronise_fcState (s : State) : (resynchronise s).fcState = .waitFrameData := rfl
@[simp] theorem resynchronise_fbLen (s : State) : (resynchronise s).fbLen = s.fbLen := rfl
@[simp] theorem resynchronise_fbIdx (s : State) : (resynchronise s).fbIdx = 0 := rfl
@[simp] theorem resynchronise_inSub (s : State) : (resynchronise s).inSub = false := rfl
@[simp] theorem resynchronise_acc (s : State) : (resynchronise s).acc = 0 := rfl
@[simp] theorem resynchronise_bitcnt (s : State) : (resynchronise s).bitcnt = 0 := rfl
@[simp] theorem resynchronise_ftoCnt (s : State) : (resynchronise s).ftoCnt = s.ftoCnt := rfl
@[simp] theorem resynchronise_fb (s : State) : (resynchronise s).fb = s.fb := rfl
@[simp] theorem resynchronise_fbPower (s : State) : (resynchronise s).fbPower = s.fbPower := rfl
@[simp] theorem resynchronise_now (s : State) : (resynchronise s).now = s.now := rfl
@[simp] theorem resynchronise_pulseBusy (s : State) : (resynchronise s).pulseBusy = s.pulseBusy := rfl
@[simp] theorem resynchronise_respCode (s : State) : (resynchronise s).respCode = s.respCode := rfl
@[simp] theorem resynchronise_respData (s : State) : (resynchronise s).respData = s.respData := rfl
@[simp] theorem resynchronise_inputs (s : State) : (resynchronise s).inputs = s.inputs := rfl
@[simp] theorem resynchronise_envIdx (s : State) : (resynchronise s).envIdx = s.envIdx := rfl

end Sys2Proof.Machine
end

