-- ==== Sys2Proof/Laws/Phases.lean ====
section
/-! SUPPORT. What each shared operation and each phase can do, said once: later proofs cite these lemmas and do not
unfold the operation. -/

namespace Sys2Proof.Machine

/-! ## Outcomes -/

@[simp] theorem andThen_next (s : State) (k : State → Host.Outcome State Fault Refusal) :
    andThen (.next s) k = k s := rfl

@[simp] theorem andThen_fault (f : Fault) (k : State → Host.Outcome State Fault Refusal) :
    andThen (.fault f) k = .fault f := rfl

@[simp] theorem andThen_refused (r : Refusal) (k : State → Host.Outcome State Fault Refusal) :
    andThen (.refused r) k = .refused r := rfl

/-- A composition answers a next state exactly when both parts do. -/
theorem andThen_eq_next (o : Host.Outcome State Fault Refusal) (k : State → Host.Outcome State Fault Refusal)
    (t : State) : andThen o k = .next t ↔ ∃ s, o = .next s ∧ k s = .next t := by
  cases o <;> simp [andThen]

/-! ## Time, counters and operands as numbers -/

/-- `elapsed()` as a number (R9, R111). -/
theorem elapsed_toNat (s : State) : (elapsed s).toNat = (s.now.toNat + 2 ^ 32 - s.tLast.toNat) % 2 ^ 32 :=
  Time.toNat_sub _ _

/-- `sat_inc` of the frame-timeout counter as a number (R9, R42). -/
theorem satInc_toNat (c : FtoCount) : (satInc c).toNat = min (c.toNat + 1) (2 ^ 32 - 1) := by
  have hc := c.toNat_lt
  unfold satInc
  split
  · next h => rw [h]; rfl
  · next h =>
    have hne : c.toNat ≠ 2 ^ 32 - 1 := fun e => h (BitVec.eq_of_toNat_eq (e.trans rfl))
    have h1 : (c + 1).toNat = (c.toNat + 1) % 2 ^ 32 := FtoCount.toNat_add c 1
    omega

/-- The operand of SETIDLE as a number (R87, R167). -/
theorem tickOperand_toNat (t : Nat) (h : t < 2 ^ 32) : (tickOperand t).toNat = t := Nat.mod_eq_of_lt h

/-- The operand `dur` of PULSE as a number (R87, R169). -/
theorem durOperand_toNat (dur : Nat) (h : dur < 2 ^ 31) : (durOperand dur).toNat = dur := by
  have h1 : (BitVec.ofNat 31 dur).toNat = dur := Nat.mod_eq_of_lt h
  rw [durOperand, BitVec.toNat_setWidth_of_le (by decide), h1]

/-- The length BEGIN binds as a number (R200). -/
theorem lenOperand_toNat (len : Nat) (h : len ≤ 256) : (lenOperand len).toNat = len :=
  Nat.mod_eq_of_lt (by omega)

/-- An index or count in `resp_data` is that number (R88). -/
theorem indexWord_toNat (v : BitVec 9) : (indexWord v).toNat = v.toNat := BitVec.toNat_setWidth_of_le (by decide)

/-! ## The pulse -/

/-- `start_pulse` with no duration sets the line at once (R132). -/
theorem startPulse_zero (f : Bool) (s : State) : startPulse 0 f s = { s with tx := f } := by simp [startPulse]

/-- `start_pulse` with a duration raises the line and loads the counter (R132). -/
theorem startPulse_pos (d : Time) (f : Bool) (s : State) (h : d ≠ 0) :
    startPulse d f s = { s with tx := true, pulseCnt := d, pulseFinal := f } := if_neg h

/-- A pulse changes the line and the pulse engine's two registers, nothing else (R132). -/
theorem startPulse_frame (d : Time) (f : Bool) (s : State) :
    startPulse d f s = { s with
      tx := (startPulse d f s).tx
      pulseCnt := (startPulse d f s).pulseCnt
      pulseFinal := (startPulse d f s).pulseFinal } := by
  unfold startPulse; split <;> rfl

/-- The pulse engine with no pulse in progress (R133). -/
theorem pulseEngine_idle (s : State) (h : s.pulseCnt = 0) : pulseEngine s = { s with pulseBusy := false } := if_pos h

/-- The pulse engine while a pulse is timed (R133). -/
theorem pulseEngine_busy (s : State) (h : s.pulseCnt ≠ 0) :
    pulseEngine s = { s with
      pulseBusy := true
      pulseCnt := s.pulseCnt - 1
      tx := if s.pulseCnt = 1 then s.pulseFinal else s.tx } := if_neg h

/-- A cell is started with the oldest outbound bit (R80, R136, R139). -/
theorem sendCell_cons (p : Params) (s : State) (b : Bool) (bs : List Bool) (h : s.ob.contents = b :: bs) :
    sendCell p s = startPulse p.writePulse b { s with ob := s.ob.pull.2 } := by
  have hp : s.ob.pull = (some b, s.ob.pull.2) := by rw [← (BitFifo.pull_cons _ _ _ h).1]
  unfold sendCell; rw [hp]

/-- With no outbound bit there is no cell (R122). -/
theorem sendCell_nil (p : Params) (s : State) (h : s.ob.contents = []) : sendCell p s = s := by
  simp [sendCell, BitFifo.pull_empty _ h]

/-! ## The queues, as commands use them -/

/-- `enqueue` appends the bits that fit and answers OK or FULL; nothing else changes (R127, R161, R162, R201). -/
theorem enqueue_eq (bits : List Bool) (s : State) (h : s.ob.cnt.toNat ≤ 64) :
    (enqueue bits s).ob.contents = s.ob.contents ++ bits.take (64 - s.ob.cnt.toNat)
      ∧ (enqueue bits s).respCode = (if bits.length ≤ 64 - s.ob.cnt.toNat then .ok else .full)
      ∧ enqueue bits s = { s with ob := (enqueue bits s).ob, respCode := (enqueue bits s).respCode, respData := 0 } := by
  obtain ⟨h1, h2, -⟩ := BitFifo.pushSeq_contents s.ob bits h
  refine ⟨h1, ?_, rfl⟩
  simp only [enqueue, respond_respCode]
  by_cases hb : (s.ob.pushSeq bits).2 = true
  · rw [if_pos hb, if_pos (h2.1 hb)]
  · rw [if_neg hb, if_neg fun h => hb (h2.2 h)]

/-! ## Phase 4 -/

/-- What the channel phase can do: nothing while it is held, else exactly one of R135 to R143. -/
theorem channelPhase_cases (p : Params) (s : State) :
    (channelRuns s = false ∧ channelPhase p s = s)
    ∨ (channelRuns s = true ∧
      ((s.chState = .idle ∧ s.edgeFlag = true ∧ channelPhase p s = acceptSession s)
      ∨ (s.chState = .idle ∧ s.edgeFlag = false ∧ mayInitiate s = true ∧ channelPhase p s = initiateSession p s)
      ∨ (s.chState = .idle ∧ s.edgeFlag = false ∧ mayInitiate s = false ∧
          channelPhase p s = { s with frameEnd := s.frameEnd || elapsedAtLeast s.idleTo s })
      ∨ (s.chState = .awaitSample ∧ elapsedAtLeast p.readDelay s = true ∧
          channelPhase p s = answerSample p (sampleBit s))
      ∨ (s.chState = .awaitSample ∧ elapsedAtLeast p.readDelay s = false ∧ channelPhase p s = s)
      ∨ (s.chState = .awaitAck ∧ s.edgeFlag = true ∧
          channelPhase p s = { s with edgeFlag := false, tLast := s.now, chState := .awaitHold })
      ∨ (s.chState = .awaitAck ∧ s.edgeFlag = false ∧ (p.hsEnforce && elapsedAtLeast p.hsTimeout s) = true ∧
          channelPhase p s = { s with tx := false, hsErr := true, tLast := s.now, chState := .idle })
      ∨ (s.chState = .awaitAck ∧ s.edgeFlag = false ∧ (p.hsEnforce && elapsedAtLeast p.hsTimeout s) = false ∧
          channelPhase p s = s)
      ∨ (s.chState = .awaitHold ∧ elapsedAtLeast p.writeDelay s = true ∧
          channelPhase p s = { s with tx := false, chState := .awaitSample })
      ∨ (s.chState = .awaitHold ∧ elapsedAtLeast p.writeDelay s = false ∧ channelPhase p s = s))) := by
  cases hr : channelRuns s with
  | false => exact .inl ⟨rfl, by simp [channelPhase, hr]⟩
  | true =>
    refine .inr ⟨rfl, ?_⟩
    cases hc : s.chState with
    | idle =>
      cases he : s.edgeFlag <;> cases hm : mayInitiate s <;> simp [channelPhase, hr, hc, idleState, he, hm]
    | awaitSample =>
      cases hd : elapsedAtLeast p.readDelay s <;> simp [channelPhase, hr, hc, awaitSampleState, hd]
    | awaitAck =>
      cases he : s.edgeFlag <;> cases hh : (p.hsEnforce && elapsedAtLeast p.hsTimeout s) <;>
        simp [channelPhase, hr, hc, awaitAckState, he, hh]
    | awaitHold =>
      cases hd : elapsedAtLeast p.writeDelay s <;> simp [channelPhase, hr, hc, awaitHoldState, hd]

/-- What is sent back after a sample: the three cases of R139. -/
theorem answerSample_cases (p : Params) (s : State) :
    (s.ob.contents = [] ∧ s.selfInit = true ∧ answerSample p s = { s with chState := .idle })
    ∨ (s.ob.contents = [] ∧ s.selfInit = false ∧
        answerSample p s = { startPulse p.writePulse false s with chState := .idle })
    ∨ (∃ b bs, s.ob.contents = b :: bs ∧
        answerSample p s =
          { startPulse p.writePulse b { s with ob := s.ob.pull.2 } with chState := .awaitAck }) := by
  cases h : s.ob.contents with
  | nil =>
    have he := (BitFifo.isEmpty_eq_true_iff s.ob).2 h
    cases hs : s.selfInit <;> simp [answerSample, he, hs]
  | cons b bs =>
    have he : s.ob.isEmpty = false := by
      rw [Bool.eq_false_iff, ne_eq, BitFifo.isEmpty_eq_true_iff]; simp [h]
    exact .inr (.inr ⟨b, bs, rfl, by simp [answerSample, he, sendCell_cons p s b bs h]⟩)

/-! ## Phase 5 -/

/-- What the codec phase can do (R180 to R189): nothing while it is off, else one of its rules. -/
theorem codecPhase_cases (s : State) :
    (s.fcEn = false ∧ codecPhase s = .next s)
    ∨ (s.fcEn = true ∧
      ((s.fcState = .waitFrameStart ∧ s.frameEnd = true ∧ codecPhase s = .next (drainBit s))
      ∨ (s.fcState = .waitFrameStart ∧ s.frameEnd = false ∧ codecPhase s = .next (resynchronise s))
      ∨ (∃ b bs, s.fcState = .waitFrameData ∧ s.ib.contents = b :: bs ∧ codecPhase s = assembleBit b (drainBit s))
      ∨ (s.fcState = .waitFrameData ∧ s.ib.contents = [] ∧ s.frameEnd = true ∧ codecPhase s = .next (closeFrame s))
      ∨ (s.fcState = .waitFrameData ∧ s.ib.contents = [] ∧ s.frameEnd = false ∧ codecPhase s = .next s)
      ∨ (s.fcState = .frameEnd ∧ s.frameEnd = true ∧ codecPhase s = .next (drainBit s))
      ∨ (s.fcState = .frameEnd ∧ s.frameEnd = false ∧
          codecPhase s = .next { s with fcState := .waitFrameStart }))) := by
  cases hen : s.fcEn with
  | false => exact .inl ⟨rfl, by simp [codecPhase, hen]⟩
  | true =>
    refine .inr ⟨rfl, ?_⟩
    cases hs : s.fcState with
    | waitFrameStart => cases hf : s.frameEnd <;> simp [codecPhase, hen, hs, hf]
    | frameEnd => cases hf : s.frameEnd <;> simp [codecPhase, hen, hs, hf]
    | waitFrameData =>
      cases hc : s.ib.contents with
      | nil => cases hf : s.frameEnd <;>
          simp [codecPhase, hen, hs, hf, waitFrameDataState, BitFifo.pull_empty _ hc]
      | cons b bs =>
        have hp : s.ib.pull = (some b, s.ib.pull.2) := by rw [← (BitFifo.pull_cons _ _ _ hc).1]
        refine .inr (.inr (.inl ⟨b, bs, rfl, rfl, ?_⟩))
        have h1 : codecPhase s = waitFrameDataState s := by simp [codecPhase, hen, hs]
        rw [h1, waitFrameDataState, hp]; rfl

/-- What the assembler can do with a bit (R183 to R186). -/
theorem assembleBit_cases (b : Bool) (s : State) :
    (¬ s.fbIdx.toNat < s.fbLen.toNat ∧ assembleBit b s = .next s)
    ∨ (s.fbIdx.toNat < s.fbLen.toNat ∧
      ((s.inSub = false ∧ assembleBit b s = .next (startBit b s))
      ∨ (s.inSub = true ∧ s.bitcnt + 1 ≠ 8 ∧
          assembleBit b s = .next { s with acc := shiftIn s.acc b, bitcnt := s.bitcnt + 1 })
      ∨ (s.inSub = true ∧ s.bitcnt + 1 = 8 ∧ assembleBit b s = storeByte (shiftIn s.acc b) s))) := by
  by_cases hl : s.fbIdx.toNat < s.fbLen.toNat
  · refine .inr ⟨hl, ?_⟩
    rcases Bool.eq_false_or_eq_true s.inSub with hi | hi
    case inr => exact .inl ⟨hi, by simp [assembleBit, hl, hi]⟩
    case inl =>
      have h1 : assembleBit b s = accumulateBit b s := by rw [assembleBit, if_pos hl, if_pos hi]
      rw [h1, accumulateBit]
      by_cases hb : s.bitcnt + 1 = 8
      · exact .inr (.inr ⟨hi, hb, if_pos hb⟩)
      · exact .inr (.inl ⟨hi, hb, if_neg hb⟩)
  · exact .inl ⟨hl, by simp [assembleBit, hl]⟩

/-- The store inside the index space (R186). -/
theorem storeByte_inside (v : Byte) (s : State) (h : s.fbIdx.toNat < Config.fbMax) :
    storeByte v s = .next { s with
      fb := Memory.write s.fb s.fbIdx.toNat v, fbIdx := s.fbIdx + 1, acc := v, inSub := false, bitcnt := 0 } := by
  simp [storeByte, h]

/-! ## The step -/

theorem receiveBits_cons (b : Bool) (bits : List Bool) (s : State) :
    receiveBits (b :: bits) s = andThen (receiveBit b s) (receiveBits bits) := rfl

@[simp] theorem receiveBits_nil (s : State) : receiveBits [] s = .next s := rfl

/-- A tick without a command (R103). -/
theorem commandPhase_none (i : TickInput) (s : State) (h : i.cmdValid = false) :
    commandPhase i s = .next (respond .ok 0 s) := by simp [commandPhase, h]

/-- A tick whose word decodes runs the instruction (R103). -/
theorem commandPhase_ok (i : TickInput) (s : State) (c : Instr) (h : i.cmdValid = true)
    (hd : decode (.command i.cmd) = .ok c) : commandPhase i s = exec c s := by simp [commandPhase, h, hd]

/-- A tick whose word is illegal (R91). -/
theorem commandPhase_illegal (i : TickInput) (s : State) (e : Reject) (h : i.cmdValid = true)
    (hd : decode (.command i.cmd) = .error e) : commandPhase i s = .next (respond .illegal 0 s) := by
  simp [commandPhase, h, hd]

theorem stepWith_tick (p : Params) (i : TickInput) (rest : List Input) (s : State) (h : s.inputs = .tick i :: rest) :
    stepWith p s = tick p i { s with inputs := rest } := by simp [stepWith, h]

theorem stepWith_wire (p : Params) (bits : List Bool) (rest : List Input) (s : State)
    (h : s.inputs = .wire bits :: rest) : stepWith p s = wireStep bits { s with inputs := rest } := by
  simp [stepWith, h]

theorem stepWith_free (p : Params) (s : State) (h : s.inputs = []) :
    stepWith p s = tick p (freeInput s.envIdx) { s with envIdx := s.envIdx + 1 } := by simp [stepWith, h]

end Sys2Proof.Machine
end

