-- ==== Sys2Proof/Tests/Slice0.lean ====
section
/-! SUPPORT. Tests: the well-formedness checks, words written out from the encoding tables (30_encoding.md R90,
95_test_vectors.md W3, W4), one-step vectors of 95_test_vectors.md, and a witness for each statement's hypotheses. -/

namespace Sys2Proof.Tests

open Sys2Proof.Machine

/-! ## Helpers -/

/-- The parameter set P0 of 95_test_vectors.md. -/
def p0 : Params :=
  { writePulse := 2, readDelay := 3, writeDelay := 1, hsTimeout := 100, hsEnforce := false, canInitReset := true
    idleToReset := 12 }

/-- P0 with the handshake timeout enforced after 20 ticks (vector C13). -/
def pEnforced : Params := { p0 with hsEnforce := true, hsTimeout := 20 }

/-- The reset state under P0, with the line sampled low once. -/
def s0 : State := { State.resetWith p0 with rxQ := false }

/-- A queue that holds these bits. -/
def queue (bits : List Bool) : BitFifo := ((State.resetWith p0).ib.pushSeq bits).1

/-- A queue of `n` zeros. -/
def zeros (n : Nat) : BitFifo := { mem := Vector.replicate 64 false, rd := 0, cnt := BitVec.ofNat 7 n }

/-- A view of the next state, none where there is none. -/
def after {α : Type} (o : Host.Outcome State Fault Refusal) (view : State → α) : Option α :=
  match o with
  | .next t => some (view t)
  | .fault _ => none
  | .refused _ => none

/-- The codec in WaitFrameData with a buffer of five bytes. -/
def wfd : State := { s0 with fcEn := true, fcState := .waitFrameData, fbLen := 5 }

/-! ## Well-formedness: each check refuses an ill-formed term (R87, R93) -/

theorem test_wf_refuses_hasdata_256 : (Instr.hasdata 256).wf = false := by decide
theorem test_wf_refuses_pulse_dur : (Instr.pulse (2 ^ 31) true).wf = false := by decide
theorem test_wf_refuses_setidle : (Instr.setidle (2 ^ 32)).wf = false := by decide
theorem test_wf_refuses_begin : (Instr.begin_ 65536).wf = false := by decide
theorem test_wf_refuses_fbread : (Instr.fbread 65536).wf = false := by decide
theorem test_wf_accepts_begin_0 : (Instr.begin_ 0).wf = true := by decide

/-! ## Decoding (W3) and rejecting (W4) -/

theorem test_decode_nop : decode (.command 0x0000000000#40) = .ok .nop := by decide
theorem test_decode_sendbit : decode (.command 0x1000000001#40) = .ok (.sendbit true) := by decide
theorem test_decode_sendbyte : decode (.command 0x11000000A5#40) = .ok (.sendbyte 0xA5) := by decide
theorem test_decode_hasdata : decode (.command 0x1200000008#40) = .ok (.hasdata 8) := by decide
theorem test_decode_recvbit : decode (.command 0x1300000000#40) = .ok .recvbit := by decide
theorem test_decode_recvbyte : decode (.command 0x1400000000#40) = .ok .recvbyte := by decide
theorem test_decode_pulse : decode (.command 0x158000000A#40) = .ok (.pulse 10 true) := by decide
theorem test_decode_pulse_low : decode (.command 0x1500000003#40) = .ok (.pulse 3 false) := by decide
theorem test_decode_setinit : decode (.command 0x1600000001#40) = .ok (.setinit true) := by decide
theorem test_decode_setidle : decode (.command 0x17000003E8#40) = .ok (.setidle 1000) := by decide
theorem test_decode_hsclr : decode (.command 0x1800000000#40) = .ok .hsclr := by decide
theorem test_decode_begin : decode (.command 0x2000000005#40) = .ok (.begin_ 5) := by decide
theorem test_decode_sendsf : decode (.command 0x2100000080#40) = .ok (.sendsf 0x80) := by decide
theorem test_decode_fcomplete : decode (.command 0x2200000000#40) = .ok .fcomplete := by decide
theorem test_decode_getframe : decode (.command 0x2300000000#40) = .ok .getframe := by decide
theorem test_decode_resetframe : decode (.command 0x2400000000#40) = .ok .resetframe := by decide
theorem test_decode_fbread : decode (.command 0x2500000002#40) = .ok (.fbread 2) := by decide
theorem test_decode_ftodet : decode (.command 0x2600000000#40) = .ok .ftodet := by decide
theorem test_decode_ftocnt : decode (.command 0x2700000000#40) = .ok .ftocnt := by decide
theorem test_decode_ftoreset : decode (.command 0x2800000000#40) = .ok .ftoreset := by decide
theorem test_decode_status : decode (.command 0x3000000000#40) = .ok .status := by decide
theorem test_decode_fstatus : decode (.command 0x3100000000#40) = .ok .fstatus := by decide
/-- W1: 0x02 is sent as 1 0000 0010. -/
theorem test_decode_subframe :
    decode (.wire [true, false, false, false, false, false, false, true, false]) = .ok (.subframe 0x02) := by decide
theorem test_decode_syncbit : decode (.wire [false]) = .ok .syncbit := by decide
/-- W1: SENDBYTE 0xA5 queues 10100101. -/
theorem test_decode_rawbyte :
    decode (.wire [true, false, true, false, false, true, false, true]) = .ok (.rawbyte 0xA5) := by decide

theorem test_reject_opcode : decode (.command 0x9900000000#40) = .error (.unknownOpcode 0x99) := by decide
theorem test_reject_nop_operand : decode (.command 0x0000000001#40) = .error (.reservedBits 0x00 1) := by decide
theorem test_reject_sendbit : decode (.command 0x1000000002#40) = .error (.reservedBits 0x10 2) := by decide
theorem test_reject_sendbyte : decode (.command 0x1100000100#40) = .error (.reservedBits 0x11 0x100) := by decide
theorem test_reject_begin : decode (.command 0x2000010000#40) = .error (.reservedBits 0x20 0x10000) := by decide
theorem test_reject_wire : decode (.wire [true]) = .error (.noWirePattern [true]) := by decide

theorem test_table_subframe : decodeTableWord 16 0x1A5 = some (.subframe 0xA5) := by decide
theorem test_table_syncbit : decodeTableWord 8 0 = some .syncbit := by decide
theorem test_table_rawbyte : decodeTableWord 8 0xA5 = some (.rawbyte 0xA5) := by decide
theorem test_table_command : decodeTableWord 40 0x2500000002 = some (.fbread 2) := by decide

/-! ## BitChannel commands (vectors B1 to B18) -/

theorem test_sendbit_full :
    after (execSendbit false { s0 with ob := zeros 64 }) (fun t => (t.respCode, t.ob.cnt)) = some (.full, 64) := by decide
theorem test_sendbyte_order :
    after (execSendbyte 0xA5 s0) (fun t => (t.respCode, t.ob.contents))
      = some (.ok, [true, false, true, false, false, true, false, true]) := by decide
theorem test_sendbyte_partial :
    after (execSendbyte 0xA5 { s0 with ob := zeros 60 }) (fun t => (t.respCode, t.ob.contents.drop 60))
      = some (.full, [true, false, true, false]) := by decide
theorem test_hasdata_8 :
    after (execHasdata 8 { s0 with ib := zeros 8 }) (fun t => t.respData) = some 1 := by decide
theorem test_hasdata_9 :
    after (execHasdata 9 { s0 with ib := zeros 8 }) (fun t => t.respData) = some 0 := by decide
theorem test_recvbit :
    after (execRecvbit { s0 with ib := queue [true, false] }) (fun t => (t.respCode, t.respData, t.ib.contents))
      = some (.ok, 1, [false]) := by decide
theorem test_recvbyte :
    after (execRecvbyte { s0 with ib := queue [true, false, true, false, false, true, false, true, true] })
      (fun t => (t.respCode, t.respData, t.ib.contents)) = some (.ok, 0xA5, [true]) := by decide
theorem test_recvbyte_short :
    after (execRecvbyte { s0 with ib := zeros 7 }) (fun t => (t.respCode, t.respData, t.ib.cnt))
      = some (.empty, 0, 7) := by decide
theorem test_pulse_starts :
    after (execPulse 3 true s0) (fun t => (t.tx, t.pulseCnt, t.pulseFinal)) = some (true, 3, true) := by decide
theorem test_pulse_busy :
    after (execPulse 1 false { s0 with pulseBusy := true, pulseCnt := 1 }) (fun t => (t.respCode, t.pulseCnt))
      = some (.busy, 1) := by decide
theorem test_setinit : after (execSetinit false s0) (fun t => t.canInit) = some false := by decide
theorem test_setidle : after (execSetidle 5 s0) (fun t => t.idleTo) = some 5 := by decide
theorem test_hsclr : after (execHsclr { s0 with hsErr := true }) (fun t => t.hsErr) = some false := by decide
theorem test_nop : after (execNop s0) (fun t => (t.respCode, t.respData)) = some (.ok, 0) := by decide
/-- B17. -/
theorem test_status_after_reset : after (execStatus s0) (fun t => t.respData) = some 0x00000100 := by decide
/-- P4, tick 34: APA, self_init, tx, pulse active, can_init, fc_en, WFD, OB_CNT = 63. -/
theorem test_status_many_fields :
    after (execStatus { s0 with
        chState := .awaitAck, selfInit := true, tx := true, pulseCnt := 1, fcEn := true, fcState := .waitFrameData
        ob := zeros 63, fbLen := 256 }) (fun t => t.respData) = some 0x1F800DA6 := by decide
/-- B18. -/
theorem test_fstatus :
    after (execFstatus { s0 with fbLen := 5, fbIdx := 1 }) (fun t => t.respData) = some 0x00000A01 := by decide
/-- P5: acc = 0x33, fb_len = 1, fb_idx = 1. -/
theorem test_fstatus_acc :
    after (execFstatus { s0 with fbLen := 1, fbIdx := 1, acc := 0x33 }) (fun t => t.respData)
      = some 0x0CC00201 := by decide

/-! ## FrameCodec commands (vectors K1 to K12) -/

theorem test_begin_256 :
    after (execBegin 256 s0) (fun t => (t.respCode, t.fcEn, t.fbLen)) = some (.ok, true, 256) := by decide
theorem test_begin_257 : after (execBegin 257 s0) (fun t => (t.respCode, t.fcEn)) = some (.badarg, false) := by decide
theorem test_sendsf_fills :
    after (execSendsf 0x02 { s0 with ob := zeros 55 }) (fun t => (t.respCode, t.ob.contents.drop 55))
      = some (.ok, [true, false, false, false, false, false, false, true, false]) := by decide
theorem test_sendsf_partial :
    after (execSendsf 0xFF { s0 with ob := zeros 56 }) (fun t => (t.respCode, t.ob.cnt)) = some (.full, 64) := by decide
theorem test_fcomplete : after (execFcomplete { wfd with fbIdx := 5 }) (fun t => t.respData) = some 1 := by decide
theorem test_fcomplete_unbound : after (execFcomplete s0) (fun t => t.respData) = some 0 := by decide
theorem test_getframe :
    after (execGetframe { wfd with fbIdx := 2, inSub := true, bitcnt := 4 })
      (fun t => (t.respData, t.fbIdx, t.inSub, t.bitcnt)) = some (2, 0, true, 4) := by decide
theorem test_resetframe :
    after (execResetframe { wfd with fbIdx := 3 }) (fun t => (t.respData, t.fbIdx)) = some (0, 0) := by decide
theorem test_fbread :
    after (execFbread 2 { wfd with fb := [(0, 0), (1, 2), (2, 0x80)] }) (fun t => (t.respCode, t.respData))
      = some (.ok, 0x80) := by decide
theorem test_fbread_outside : after (execFbread 5 wfd) (fun t => t.respCode) = some .badarg := by decide
theorem test_ftodet : after (execFtodet { s0 with ftoCnt := 3 }) (fun t => t.respData) = some 1 := by decide
theorem test_ftocnt : after (execFtocnt { s0 with ftoCnt := 3 }) (fun t => t.respData) = some 3 := by decide
theorem test_ftoreset : after (execFtoreset { s0 with ftoCnt := 3 }) (fun t => t.ftoCnt) = some 0 := by decide

/-! ## Wire patterns (W2) -/

theorem test_subframe_stores :
    after (execSubframe 0xA5 { wfd with fbIdx := 4 }) (fun t => (Memory.read t.fb 4, t.fbIdx, t.inSub))
      = some (some 0xA5, 5, false) := by decide
theorem test_syncbit_dropped :
    after (execSyncbit wfd) (fun t => (t.inSub, t.fbIdx, t.ib.cnt)) = some (false, 0, 0) := by decide
theorem test_rawbyte_queued :
    after (execRawbyte 0xA5 s0) (fun t => t.ib.contents)
      = some [true, false, true, false, false, true, false, true] := by decide

/-! ## Phases and ticks (vectors S1 to S4, C1 to C19, D1 to D20) -/

/-- S3: the same tick's command is sent; with an edge the edge wins. -/
theorem test_phase_order :
    after (tick p0 (commandInput false (.sendbit true)) { s0 with frameEnd := true, now := 100, tLast := 50 })
      (fun t => (t.chState, t.tx, t.pulseCnt, t.tLast)) = some (.awaitAck, true, 2, 100) := by decide
theorem test_edge_wins :
    after (tick p0 (commandInput true (.sendbit true)) { s0 with frameEnd := true, now := 100, tLast := 50 })
      (fun t => (t.chState, t.tx, t.ob.contents, t.frameEnd)) = some (.awaitSample, false, [true], false) := by decide
/-- S4, tick 51: the pulse ends, the channel does not run. -/
theorem test_pulse_ends :
    after (tick p0 (lineInput true) { s0 with pulseCnt := 1, tx := true, edgeFlag := true })
      (fun t => (t.pulseCnt, t.tx, t.chState, t.edgeFlag)) = some (0, false, .idle, true) := by decide
/-- C10: a sample into a full queue is lost, the ack is sent. -/
theorem test_inbound_overflow :
    after (tick p0 (lineInput true) { s0 with ib := zeros 64, chState := .awaitSample, tLast := 100, now := 103 })
      (fun t => (t.ib.cnt, t.chState, t.pulseCnt, t.edgeFlag)) = some (64, .idle, 2, true) := by decide
/-- C13: the enforced timeout at 20 ticks, not at 19. -/
theorem test_enforced_timeout :
    after (tick pEnforced (lineInput false) { s0 with chState := .awaitAck, tx := true, tLast := 100, now := 120 })
      (fun t => (t.chState, t.tx, t.hsErr)) = some (.idle, false, true) := by decide
theorem test_enforced_timeout_early :
    after (tick pEnforced (lineInput false) { s0 with chState := .awaitAck, tx := true, tLast := 100, now := 119 })
      (fun t => (t.chState, t.tx, t.hsErr)) = some (.awaitAck, true, false) := by decide
/-- C16: the difference wraps. -/
theorem test_elapsed_wraps :
    after (tick p0 (lineInput true) { s0 with rxQ := true, chState := .awaitSample, tLast := 0xFFFFFFFE, now := 1 })
      (fun t => (t.ib.contents, t.tLast)) = some ([true], 1) := by decide
/-- D7. -/
theorem test_eighth_bit :
    after (codecPhase { wfd with inSub := true, bitcnt := 7, acc := 0x52, fbIdx := 4, ib := queue [true] })
      (fun t => (t.acc, t.fb, t.fbIdx, t.inSub, t.bitcnt)) = some (0xA5, [(4, 0xA5)], 5, false, 0) := by decide
/-- D16: the counter saturates. -/
theorem test_timeout_saturates :
    after (codecPhase { wfd with frameEnd := true, inSub := true, ftoCnt := 0xFFFFFFFF })
      (fun t => (t.ftoCnt, t.fcState)) = some (0xFFFFFFFF, .frameEnd) := by decide
/-- D13: a complete frame is not counted and stays. -/
theorem test_complete_frame_kept :
    after (codecPhase { wfd with frameEnd := true, fbIdx := 5 }) (fun t => (t.ftoCnt, t.fbIdx)) = some (0, 5) := by decide
/-- S1: reset clears the queues and keeps the frame buffer. -/
theorem test_reset_keeps_fb :
    after (tick p0 { rst := true, rx := true, cmdValid := true, cmd := 0 } { s0 with ob := zeros 9, fb := [(3, 7)], rxQ := false })
      (fun t => (t.ob.cnt, t.fb, t.rxQ)) = some (0, [(3, 7)], true) := by decide
/-- W4: an unknown opcode answers ILLEGAL in its tick. -/
theorem test_illegal_tick :
    after (tick p0 { rst := false, rx := false, cmdValid := true, cmd := 0x9900000000 } s0)
      (fun t => (t.respCode, t.now)) = some (.illegal, 1) := by decide
/-- T1, ticks 13 and 14: the responder sees the initiator's edge one tick after the cell starts. -/
theorem test_pair_edge :
    (match pairTick p0 { p0 with canInitReset := false } { rstA := false, cmdA := none, rstB := false, cmdB := none }
        { a := { s0 with tx := true }, b := s0 } with
      | .next t => (t.b.chState, t.a.chState)
      | _ => (.awaitHold, .awaitHold)) = (.awaitSample, .idle) := by decide

/-! ## The fixed interface -/

theorem test_core_runs_begin : goesOn (step (State.reset.withFetchWord 40 0x2000000005)) = true := by decide
theorem test_core_runs_subframe : goesOn (step (State.reset.withFetchWord 16 0x1A5)) = true := by decide
theorem test_tick_begin_effect :
    after (tick p0 (commandInput false (.begin_ 5)) s0) (fun t => (t.fcEn, t.fbLen, t.respCode)) = some (true, 5, .ok) := by decide

/-! ## Witnesses: a concrete state and operands that meet the hypotheses of each statement, one per clause -/

theorem witness_DecodeInvertsEncode : (Instr.fbread 65535).wf = true ∧ (Instr.pulse (2 ^ 31 - 1) true).wf = true := by decide
theorem witness_EncodeInvertsDecode : decode (.command 0x15FFFFFFFF#40) = .ok (.pulse (2 ^ 31 - 1) true) := by decide
theorem witness_IllegalWordsAnswerIllegal :
    let i : TickInput := { rst := false, rx := false, cmdValid := true, cmd := 0x1000000002 }
    i.cmdValid = true ∧ ¬ legalWord i.cmd := by unfold legalWord; decide
theorem witness_StepRunsDecodedInstruction_command :
    let s : State := { s0 with inputs := [.tick (commandInput false (.begin_ 5))] }
    s.inputs = .tick (commandInput false (.begin_ 5)) :: [] ∧ (commandInput false (.begin_ 5)).rst = false
      ∧ (commandInput false (.begin_ 5)).cmdValid = true
      ∧ decode (.command (commandInput false (.begin_ 5)).cmd) = .ok (.begin_ 5) := by decide
theorem witness_StepRunsDecodedInstruction_wire :
    ({ s0 with inputs := [.wire [false]] } : State).inputs = .wire [false] :: [] ∧ decode (.wire [false]) = .ok .syncbit := by
  decide
theorem witness_StepRunsDecodedInstruction_free : s0.inputs = [] := by decide
theorem witness_PresentedTableWordRuns :
    decodeTableWord 40 0x11000000A5 = some (.sendbyte 0xA5) ∧ decodeTableWord 16 0x1FF = some (.subframe 0xFF) := by decide
theorem witness_EveryInstructionCompletes :
    inv p0 { wfd with inSub := true, bitcnt := 7, fbIdx := 4, ib := zeros 64, ob := zeros 64 } = true := by decide
theorem witness_StepKeepsInvariants :
    let s := State.reset.withFetchWord 40 0x2000000100
    inv Config.params s = true ∧ goesOn (step s) = true := by decide
theorem witness_StepNeverStops : inv Config.params State.reset = true := by decide
theorem witness_ResetTickTakesResetValues :
    ({ rst := true, rx := false, cmdValid := true, cmd := 0x2000000005 } : TickInput).rst = true := by decide
theorem witness_FirstFrameEndAfterIdleTimeout : 0 ≤ p0.idleToReset.toNat ∧ 12 ≤ p0.idleToReset.toNat := by decide
theorem witness_FifoRefinesBoundedList :
    ({ zeros 64 with rd := 62 } : BitFifo).cnt.toNat ≤ 64 ∧ (zeros 0).cnt.toNat ≤ 64 := by decide
theorem witness_SixtyFourBitsRoundTrip :
    ({ zeros 0 with rd := 63 } : BitFifo).cnt = 0 ∧ (List.replicate 64 true).length ≤ 64 := by decide
theorem witness_ControlCommandsWriteTheirRegister : 2 ^ 32 - 1 < 2 ^ 32 := by decide
theorem witness_SendCommandsQueueTheirBits :
    s0.ob.cnt.toNat ≤ 64 ∧ ({ s0 with ob := zeros 64 } : State).ob.cnt.toNat ≤ 64 := by decide
theorem witness_SendCommandsQueueTheWirePatterns : s0.ob.contents = [] := by decide
theorem witness_RecvbitTakesOldestBit :
    s0.ib.contents = [] ∧ ({ s0 with ib := queue [true, false] } : State).ib.contents = true :: [false] := by decide
theorem witness_RecvbyteTakesEightBits :
    ({ s0 with ib := zeros 7 } : State).ib.contents.length < 8
    ∧ ({ s0 with ib := queue [true, false, true, false, false, true, false, true] } : State).ib.contents
        = ((List.range 8).map fun k => (0xA5 : Byte).getLsbD (7 - k)) ++ [] := by decide
theorem witness_PulseCommandStartsAPulseOrIsBusy :
    ({ s0 with pulseBusy := true } : State).pulseBusy = true ∧ s0.pulseBusy = false ∧ 0 < 2 ^ 31 - 1
    ∧ 2 ^ 31 - 1 < 2 ^ 31 := by decide
theorem witness_BeginBindsALengthOrRefuses : (1 ≤ 256 ∧ 256 ≤ 256) ∧ (257 = 0 ∨ 256 < 257) := by decide
theorem witness_FbreadAnswersTheByteOrRefuses :
    (255 < ({ s0 with fbLen := 256 } : State).fbLen.toNat ∧ 255 < 256) ∧ wfd.fbLen.toNat ≤ 5
    ∧ (256 ≤ 256 ∧ 256 < ({ s0 with fbLen := 257 } : State).fbLen.toNat) := by decide
theorem witness_InstructionsLeaveTheProtocolAlone :
    goesOn (exec (.setidle 5) s0) = true ∧ goesOn (exec (.subframe 0xA5) wfd) = true := by decide
theorem witness_FailedCommandsChangeNothing :
    isCommand (.sendbyte 0xA5) = true ∧ goesOn (exec (.sendbyte 0xA5) { s0 with ob := zeros 60 }) = true
    ∧ after (exec (.sendbyte 0xA5) { s0 with ob := zeros 60 }) (fun t => t.respCode) = some .full
    ∧ after (exec (.sendbit true) { s0 with ob := zeros 64 }) (fun t => (t.respCode, t.ob)) = some (.full, zeros 64)
    ∧ isCommand (.fbread 5) = true ∧ after (exec (.fbread 5) wfd) (fun t => t.respCode) = some .badarg := by decide
theorem witness_FailureResponsesCarryNoData :
    after (tick p0 (commandInput false .recvbit) s0) (fun t => t.respCode) = some .empty
    ∧ goesOn (tick p0 (lineInput false) s0) = true ∧ (lineInput false).cmdValid = false := by decide
theorem witness_SyncbitIsDiscarded :
    wfd.fcEn = true ∧ wfd.fcState = .waitFrameData ∧ wfd.ib.contents = [] ∧ wfd.fbIdx.toNat < wfd.fbLen.toNat
    ∧ wfd.inSub = false := by decide
theorem witness_SubframeStoresItsByte :
    let s : State := { wfd with fbLen := 256, fbIdx := 255 }
    s.fcEn = true ∧ s.fcState = .waitFrameData ∧ s.ib.contents = [] ∧ s.fbIdx.toNat < s.fbLen.toNat
    ∧ s.fbLen.toNat ≤ 256 ∧ s.inSub = false := by decide
theorem witness_RawbyteComesBackByRecvbyte :
    s0.fcEn = false ∧ s0.ib.contents.length ≤ 56 ∧ s0.ib.contents = []
    ∧ ({ s0 with ib := zeros 56 } : State).ib.contents.length ≤ 56 := by decide
theorem witness_FrameIsAssembledInOrder :
    let items : List (Nat × Byte) := [(3, 0x00), (0, 0x02), (1, 0x80), (0, 0x00), (0, 0xFF)]
    wfd.fcEn = true ∧ wfd.fcState = .waitFrameData ∧ wfd.ib.contents = [] ∧ wfd.fbIdx = 0 ∧ wfd.inSub = false
    ∧ wfd.fbLen.toNat = items.length ∧ items.length ≤ 256 := by decide
theorem witness_RisingEdgeIsConsumedOrPending :
    (lineInput true).rst = false ∧ goesOn (tick p0 (lineInput true) s0) = true
    ∧ ((lineInput true).rx = true ∧ s0.rxQ = false) ∧ ({ s0 with edgeFlag := true } : State).edgeFlag = true := by decide
theorem witness_PulseEngineCountsDown :
    s0.pulseCnt = 0 ∧ 1 < ({ s0 with pulseCnt := 2 } : State).pulseCnt.toNat
    ∧ ({ s0 with pulseCnt := 1 } : State).pulseCnt = 1 := by decide
theorem witness_PulseRunsItsCourse :
    let s : State := { s0 with tx := true, pulseCnt := 3, pulseFinal := false }
    let is := [lineInput true, commandInput false (.pulse 1 false), lineInput true]
    inv p0 s = true ∧ s.tx = true ∧ 0 < is.length ∧ is.length ≤ s.pulseCnt.toNat ∧ ∀ i ∈ is, i.rst = false := by decide
theorem witness_IdleEdgeBeginsPeerSession :
    let s : State := { s0 with edgeFlag := true, ob := zeros 3, frameEnd := true }
    s.pulseBusy = false ∧ s.pulseCnt = 0 ∧ s.chState = .idle ∧ s.edgeFlag = true := by decide
theorem witness_IdleInitiatesWithACell :
    let s : State := { s0 with ob := queue [true, false], frameEnd := true }
    p0.legal = true ∧ s.pulseBusy = false ∧ s.pulseCnt = 0 ∧ s.chState = .idle ∧ s.edgeFlag = false
    ∧ s.canInit = true ∧ s.frameEnd = true ∧ s.ob.contents = true :: [false] := by decide
theorem witness_IdleTimeoutSetsFrameEnd :
    let s : State := { s0 with now := 12 }
    s.pulseBusy = false ∧ s.pulseCnt = 0 ∧ s.chState = .idle ∧ s.edgeFlag = false
    ∧ ¬ (s.canInit = true ∧ s.ob.contents ≠ [] ∧ s.frameEnd = true) ∧ s.idleTo.toNat ≤ elapsedNat s := by decide
theorem witness_SampleIsQueuedAndAnswered :
    let s : State := { s0 with chState := .awaitSample, tLast := 100, now := 103, ib := zeros 64, ob := queue [true] }
    p0.legal = true ∧ s.pulseBusy = false ∧ s.pulseCnt = 0 ∧ s.chState = .awaitSample
    ∧ p0.readDelay.toNat ≤ elapsedNat s ∧ s.ib.cnt.toNat ≤ 64 ∧ s.ob.contents = true :: []
    ∧ s0.ob.contents = [] ∧ s0.selfInit = false ∧ ({ s0 with selfInit := true } : State).selfInit = true := by decide
theorem witness_AwaitAckEndsByEdgeOrEnforcedTimeout :
    let s : State := { s0 with chState := .awaitAck, tLast := 100, now := 120 }
    s.pulseBusy = false ∧ s.pulseCnt = 0 ∧ s.chState = .awaitAck ∧ ({ s with edgeFlag := true } : State).edgeFlag = true
    ∧ s.edgeFlag = false ∧ pEnforced.hsEnforce = true ∧ pEnforced.hsTimeout.toNat ≤ elapsedNat s
    ∧ ¬ (p0.hsEnforce = true ∧ p0.hsTimeout.toNat ≤ elapsedNat s) := by decide
theorem witness_HoldEndsWithTheLineReleased :
    let s : State := { s0 with chState := .awaitHold, tLast := 140, now := 141 }
    s.pulseBusy = false ∧ s.pulseCnt = 0 ∧ s.chState = .awaitHold ∧ p0.writeDelay.toNat ≤ elapsedNat s
    ∧ elapsedNat { s with now := 140 } < p0.writeDelay.toNat := by decide
theorem witness_ChannelWaitsUnchanged :
    let s : State := { s0 with chState := .awaitSample, tLast := 100, now := 102 }
    (s.chState = .awaitSample ∧ elapsedNat s < p0.readDelay.toNat)
    ∧ ({ s0 with pulseBusy := true } : State).pulseBusy = true ∧ ({ s0 with pulseCnt := 1 } : State).pulseCnt ≠ 0 := by decide
theorem witness_AwaitAckStallsWithoutAnEdge :
    let s : State := { s0 with chState := .awaitAck, tx := true }
    let is := [lineInput false, commandInput false (.pulse 2 true), commandInput false .status]
    inv p0 s = true ∧ p0.hsEnforce = false ∧ s.chState = .awaitAck ∧ s.edgeFlag = false
    ∧ ∀ i ∈ is, i.rst = false ∧ i.rx = false := by decide
theorem witness_CodecDrainsThenResynchronises :
    s0.fcEn = false ∧ ({ wfd with fcState := .frameEnd, frameEnd := true } : State).fcState ≠ .waitFrameData
    ∧ ({ wfd with fcState := .waitFrameStart } : State).fcState = .waitFrameStart ∧ wfd.fcEn = true
    ∧ wfd.frameEnd = false := by decide
theorem witness_StartBitDetectorAndCompleteFrame :
    let s : State := { wfd with ib := queue [true, false] }
    s.fcEn = true ∧ s.fcState = .waitFrameData ∧ s.ib.contents = true :: [false]
    ∧ ({ s with fbIdx := 5 } : State).fbIdx = ({ s with fbIdx := 5 } : State).fbLen
    ∧ s.fbIdx.toNat < s.fbLen.toNat ∧ s.inSub = false := by decide
theorem witness_DataBitsShiftInAndTheEighthStores :
    let s : State := { wfd with fbLen := 256, fbIdx := 255, inSub := true, bitcnt := 7, ib := queue [true] }
    s.fcEn = true ∧ s.fcState = .waitFrameData ∧ s.ib.contents = true :: [] ∧ s.fbIdx.toNat < s.fbLen.toNat
    ∧ s.fbLen.toNat ≤ 256 ∧ s.inSub = true ∧ s.bitcnt = 7 ∧ ({ s with bitcnt := 6 } : State).bitcnt ≠ 7 := by decide
theorem witness_FrameBoundaryCountsAStartedFrame :
    wfd.fcEn = true ∧ wfd.fcState = .waitFrameData ∧ wfd.ib.contents = [] ∧ wfd.frameEnd = false
    ∧ (let s : State := { wfd with frameEnd := true, fbIdx := 4 }
       s.frameEnd = true ∧ (s.inSub = true ∨ 0 < s.fbIdx.toNat) ∧ s.fbIdx.toNat < s.fbLen.toNat)
    ∧ (let s : State := { wfd with frameEnd := true, fbIdx := 5 }
       s.frameEnd = true ∧ ¬ ((s.inSub = true ∨ 0 < s.fbIdx.toNat) ∧ s.fbIdx.toNat < s.fbLen.toNat)) := by decide
theorem witness_PhasesWriteOnlyTheirOwnState :
    goesOn (codecPhase { wfd with inSub := true, bitcnt := 7, ib := queue [true] }) = true := by decide
theorem witness_EveryTickAdvancesTime :
    (lineInput true).rst = false ∧ goesOn (tick p0 (lineInput true) { s0 with now := 0xFFFFFFFF }) = true := by decide
theorem witness_ControlRegistersChangeOnlyByTheirCommand :
    (commandInput false (.setidle 7)).rst = false ∧ goesOn (tick p0 (commandInput false (.setidle 7)) s0) = true := by decide
theorem witness_FrameTimeoutCounterIsMonotone :
    let s : State := { wfd with frameEnd := true, inSub := true, ftoCnt := 0xFFFFFFFF }
    (lineInput false).rst = false ∧ goesOn (tick p0 (lineInput false) s) = true
    ∧ ¬ ((lineInput false).cmdValid = true ∧ decode (.command (lineInput false).cmd) = .ok .ftoreset) := by decide
theorem witness_SendbitStartsItsCellInTheSameTick :
    let s : State := { s0 with frameEnd := true }
    p0.legal = true ∧ s.chState = .idle ∧ s.edgeFlag = false ∧ (false = true → s.rxQ = true) ∧ s.pulseCnt = 0
    ∧ s.canInit = true ∧ s.frameEnd = true ∧ s.ob.contents = [] ∧ s.fcEn = false := by decide
theorem witness_SetidleActsInTheSameTick :
    let s : State := { s0 with canInit := false, now := 5 }
    5 < 2 ^ 32 ∧ s.chState = .idle ∧ s.edgeFlag = false ∧ (false = true → s.rxQ = true) ∧ s.pulseCnt = 0
    ∧ s.canInit = false ∧ s.fcEn = false ∧ 5 ≤ elapsedNat s := by decide
theorem witness_IllegalTickEqualsEmptyTick :
    ¬ legalWord 0x9900000000 ∧ goesOn (tick p0 (lineInput false) s0) = true := by unfold legalWord; decide
theorem witness_PeersInteractOnlyThroughTheLines :
    let i : PairInput := { rstA := false, cmdA := none, rstB := false, cmdB := some 0 }
    let j : PairInput := { rstA := false, cmdA := none, rstB := true, cmdB := none }
    let k : PairInput := { rstA := true, cmdA := none, rstB := false, cmdB := some 0 }
    let s : Pair := { a := s0, b := { s0 with tx := true } }
    let sa : Pair := { a := s0, b := { wfd with tx := true } }
    let sb : Pair := { a := wfd, b := { s0 with tx := true } }
    (match pairTick p0 p0 i s with | .next _ => true | _ => false) = true
    ∧ i.rstA = false ∧ i.rstB = false
    ∧ (match pairTick p0 pEnforced j sa with | .next _ => true | _ => false) = true
    ∧ s.a = sa.a ∧ s.b.tx = sa.b.tx ∧ i.rstA = j.rstA ∧ i.cmdA = j.cmdA
    ∧ (match pairTick pEnforced p0 k sb with | .next _ => true | _ => false) = true
    ∧ s.b = sb.b ∧ s.a.tx = sb.a.tx ∧ i.rstB = k.rstB ∧ i.cmdB = k.cmdB := by decide

end Sys2Proof.Tests
end

section
/-! The states of 10_state.md R49 as one predicate with named clauses, and what each operation of the block does to it:
every update of the state keeps it, so every instruction, phase and step completes in a state that meets it. -/

namespace Sys2Proof.Machine

/-! ## The invariants of R49, clause by clause -/

/-- `inv` with a name for each clause of R49 (`inv_iff`); (f) holds by the type of `fc_state`. -/
structure Inv (p : Params) (s : State) : Prop where
  /-- R49 (a), `ib`. -/
  ibCnt : s.ib.cnt.toNat ≤ 64
  /-- R49 (a), `ob`. -/
  obCnt : s.ob.cnt.toNat ≤ 64
  /-- R49 (b), the write index. -/
  fbIdx : s.fbIdx.toNat ≤ s.fbLen.toNat
  /-- R49 (b), the bound length. -/
  fbLen : s.fbLen.toNat ≤ 256
  /-- R49 (c), a codec that runs has a frame. -/
  codecOn : s.fcEn = true → 1 ≤ s.fbLen.toNat
  /-- R49 (c), a codec that is off has none. -/
  codecOff : s.fcEn = false → s.fbLen = 0 ∧ s.fbIdx = 0 ∧ s.fcState = .waitFrameStart ∧ s.inSub = false
  /-- R49 (d), a sub-frame has a place in the frame. -/
  inSub : s.inSub = true → s.fbIdx.toNat < s.fbLen.toNat
  /-- R49 (e), the bits of a sub-frame. -/
  bitcnt : s.bitcnt.toNat ≤ 7
  /-- R49 (e), outside a sub-frame. -/
  bitcntOut : s.inSub = false → s.bitcnt = 0
  /-- R49 (g). -/
  frameEnd : s.frameEnd = true → s.chState = .idle
  /-- R49 (h). -/
  hsErr : s.hsErr = true → p.hsEnforce = true
  /-- The canonical form of the frame buffer (R60, log 6). -/
  fb : Memory.wf s.fb = true

theorem inv_iff (p : Params) (s : State) : inv p s = true ↔ Inv p s := by
  simp only [inv, countsInv, assemblerInv, flagsInv, Bool.and_eq_true, Bool.or_eq_true, Bool.not_eq_true',
    decide_eq_true_eq, or_iff_not_imp_left, Bool.not_eq_false, Bool.not_eq_true]
  constructor
  · rintro ⟨⟨⟨⟨⟨⟨⟨⟨ha, hb⟩, hc⟩, hd⟩, he⟩, hf⟩, ⟨hg, hh⟩, hi⟩, hj, hk⟩, hl⟩
    exact ⟨ha, hb, hc, hd, he, fun h => and_assoc.1 (and_assoc.1 (hf h)), hg, hh, hi, hj, hk, hl⟩
  · rintro ⟨ha, hb, hc, hd, he, hf, hg, hh, hi, hj, hk, hl⟩
    exact ⟨⟨⟨⟨⟨⟨⟨⟨ha, hb⟩, hc⟩, hd⟩, he⟩, fun h => and_assoc.2 (and_assoc.2 (hf h))⟩, ⟨hg, hh⟩, hi⟩, hj, hk⟩, hl⟩

/-! ## Updates that keep the invariants -/

section Updates

variable {p : Params} {s : State}

/-- The reset values of R20 and R251 meet R49. -/
theorem Inv.resetWith (p : Params) : Inv p (State.resetWith p) where
  ibCnt := Nat.zero_le _
  obCnt := Nat.zero_le _
  fbIdx := Nat.zero_le _
  fbLen := Nat.zero_le _
  codecOn := nofun
  codecOff _ := ⟨rfl, rfl, rfl, rfl⟩
  inSub := nofun
  bitcnt := Nat.zero_le _
  bitcntOut _ := rfl
  frameEnd := nofun
  hsErr := nofun
  fb := Memory.wf_reset p

/-- A reset tick keeps the frame buffer and so its canonical form (R101). -/
theorem Inv.resetTick (h : Inv p s) : Inv p (resetTick p s) :=
  { Inv.resetWith p with fb := h.fb }

theorem Inv.respond (c : RespCode) (d : Word) (h : Inv p s) : Inv p (respond c d s) := { h with }

theorem Inv.edgeCapture (rx : Bool) (h : Inv p s) : Inv p (edgeCapture rx s) := { h with }

theorem Inv.timePhase (h : Inv p s) : Inv p (timePhase s) := { h with }

/-- R49 says nothing of the inputs still to come (log 2). -/
theorem Inv.withInputs (is : List Input) (n : Nat) (h : Inv p s) : Inv p { s with inputs := is, envIdx := n } :=
  { h with }

theorem Inv.withIb (f : BitFifo) (hf : f.cnt.toNat ≤ 64) (h : Inv p s) : Inv p { s with ib := f } :=
  { h with ibCnt := hf }

theorem Inv.withOb (f : BitFifo) (hf : f.cnt.toNat ≤ 64) (h : Inv p s) : Inv p { s with ob := f } :=
  { h with obCnt := hf }

/-- R49 says nothing of the line and the pulse engine. -/
theorem Inv.withPulse (tx : Bool) (n : Time) (f b : Bool) (h : Inv p s) :
    Inv p { s with tx := tx, pulseCnt := n, pulseFinal := f, pulseBusy := b } := { h with }

theorem Inv.startPulse (d : Time) (f : Bool) (h : Inv p s) : Inv p (startPulse d f s) := by
  rw [startPulse_frame]; exact h.withPulse _ _ _ _

theorem Inv.pulseEngine (h : Inv p s) : Inv p (pulseEngine s) := by
  by_cases hc : s.pulseCnt = 0
  · rw [pulseEngine_idle s hc]; exact h.withPulse _ _ _ _
  · rw [pulseEngine_busy s hc]; exact h.withPulse _ _ _ _

/-- GETFRAME, RESETFRAME: a write index of 0 is within every frame (R203, R204). -/
theorem Inv.withFbIdxZero (h : Inv p s) : Inv p { s with fbIdx := 0 } :=
  { h with
    fbIdx := Nat.zero_le _
    codecOff := fun hen => (h.codecOff hen).imp_right fun hoff => ⟨rfl, hoff.2⟩
    inSub := fun hsub => Nat.zero_lt_of_lt (h.inSub hsub) }

/-- BEGIN with a length of 1 to 256 binds it and restarts the codec (R200). -/
theorem Inv.begin (len : Nat) (hpos : 1 ≤ len) (hmax : len ≤ 256) (h : Inv p s) :
    Inv p { s with
      fcEn := true, fbLen := lenOperand len, fbIdx := 0, inSub := false, bitcnt := 0, acc := 0
      fcState := .waitFrameStart } :=
  have hlen := lenOperand_toNat len hmax
  { h with
    fbIdx := Nat.zero_le _
    fbLen := hlen.trans_le hmax
    codecOn := fun _ => hpos.trans_eq hlen.symm
    codecOff := nofun
    inSub := nofun
    bitcnt := Nat.zero_le _
    bitcntOut := fun _ => rfl }

end Updates

/-! ## Queues: the occupancy after several pulls -/

theorem BitFifo.pullSeq_cnt (f : BitFifo) (n : Nat) : (f.pullSeq n).2.cnt.toNat = f.cnt.toNat - n := by
  rw [← BitFifo.contents_length, (BitFifo.pullSeq_contents f n).2, List.length_drop, BitFifo.contents_length]

/-! ## What a command can do -/

/-- `CommandWrites s i u`: `u` is what the command `i` makes of `s` before it answers. Each command writes one group of
registers (43_bitchannel_cmds.md, 45_framecodec_cmds.md). -/
inductive CommandWrites (s : State) : Instr → State → Prop
  /-- The commands that only answer, and the refused ones. -/
  | nothing (i : Instr) : CommandWrites s i s
  /-- SENDBIT, SENDBYTE, SENDSF: bits are queued (R161, R162, R201). -/
  | queued (i : Instr) (bits : List Bool) : CommandWrites s i { s with ob := (s.ob.pushSeq bits).1 }
  /-- RECVBIT (R164). -/
  | recvbit : CommandWrites s .recvbit { s with ib := s.ib.pull.2 }
  /-- RECVBYTE (R165). -/
  | recvbyte : CommandWrites s .recvbyte { s with ib := (s.ib.pullSeq 8).2 }
  | pulse (dur : Nat) (final : Bool) : CommandWrites s (.pulse dur final) (startPulse (durOperand dur) final s)
  | setinit (b : Bool) : CommandWrites s (.setinit b) { s with canInit := b }
  | setidle (t : Nat) : CommandWrites s (.setidle t) { s with idleTo := tickOperand t }
  | hsclr : CommandWrites s .hsclr { s with hsErr := false }
  | begin_ (len : Nat) (hpos : 1 ≤ len) (hmax : len ≤ 256) : CommandWrites s (.begin_ len)
      { s with
        fcEn := true, fbLen := lenOperand len, fbIdx := 0, inSub := false, bitcnt := 0, acc := 0
        fcState := .waitFrameStart }
  /-- GETFRAME, RESETFRAME: the write index is zeroed (R203, R204). -/
  | rewound (i : Instr) : CommandWrites s i { s with fbIdx := 0 }
  | ftoreset : CommandWrites s .ftoreset { s with ftoCnt := 0 }

/-- A command writes its registers and answers, and nothing else; or it is an FBREAD of a byte that does not exist, in a
frame longer than the frame buffer (log 8). -/
theorem exec_command (i : Instr) (s : State) (hi : isCommand i = true) :
    (∃ u c d, exec i s = .next (respond c d u) ∧ CommandWrites s i u)
    ∨ exec i s = .fault .noSuchByte ∧ 256 < s.fbLen.toNat := by
  cases i with
  | nop => exact .inl ⟨_, _, _, rfl, .nothing _⟩
  | sendbit b => exact .inl ⟨_, _, _, rfl, .queued _ _⟩
  | sendbyte v => exact .inl ⟨_, _, _, rfl, .queued _ _⟩
  | hasdata n => exact .inl ⟨_, _, _, rfl, .nothing _⟩
  | recvbit =>
    cases hc : s.ib.contents with
    | nil => exact .inl ⟨_, _, _, by rw [exec, execRecvbit, BitFifo.pull_empty _ hc], .nothing _⟩
    | cons b bs =>
      have hp : s.ib.pull = (some b, s.ib.pull.2) := by rw [← (BitFifo.pull_cons _ _ _ hc).1]
      exact .inl ⟨_, _, _, by rw [exec, execRecvbit, hp], .recvbit⟩
  | recvbyte =>
    by_cases h8 : s.ib.size < 8
    · exact .inl ⟨_, _, _, if_pos h8, .nothing _⟩
    · exact .inl ⟨_, _, _, if_neg h8, .recvbyte⟩
  | pulse dur final =>
    cases hb : s.pulseBusy with
    | true => exact .inl ⟨_, _, _, by rw [exec, execPulse, if_pos hb], .nothing _⟩
    | false => exact .inl ⟨_, _, _, by rw [exec, execPulse, hb]; rfl, .pulse _ _⟩
  | setinit b => exact .inl ⟨_, _, _, rfl, .setinit _⟩
  | setidle t => exact .inl ⟨_, _, _, rfl, .setidle _⟩
  | hsclr => exact .inl ⟨_, _, _, rfl, .hsclr⟩
  | begin_ len =>
    by_cases hlen : len = 0 ∨ Config.fbMax < len
    · exact .inl ⟨_, _, _, if_pos hlen, .nothing _⟩
    · obtain ⟨hpos, hmax⟩ := not_or.1 hlen
      exact .inl ⟨_, _, _, if_neg hlen, .begin_ _ (Nat.one_le_iff_ne_zero.2 hpos) (Nat.le_of_not_lt hmax)⟩
  | sendsf v => exact .inl ⟨_, _, _, rfl, .queued _ _⟩
  | fcomplete => exact .inl ⟨_, _, _, rfl, .nothing _⟩
  | getframe => exact .inl ⟨_, _, _, rfl, .rewound _⟩
  | resetframe => exact .inl ⟨_, _, _, rfl, .rewound _⟩
  | fbread idx =>
    by_cases hout : s.fbLen.toNat ≤ idx
    · exact .inl ⟨_, _, _, if_pos hout, .nothing _⟩
    · by_cases hmax : idx < Config.fbMax
      · exact .inl ⟨_, _, _, by rw [exec, execFbread, if_neg hout, if_pos hmax], .nothing _⟩
      · refine .inr ⟨by rw [exec, execFbread, if_neg hout, if_neg hmax], ?_⟩
        exact (Nat.le_of_not_lt hmax).trans_lt (Nat.lt_of_not_le hout)
  | ftodet => exact .inl ⟨_, _, _, rfl, .nothing _⟩
  | ftocnt => exact .inl ⟨_, _, _, rfl, .nothing _⟩
  | ftoreset => exact .inl ⟨_, _, _, rfl, .ftoreset⟩
  | status => exact .inl ⟨_, _, _, rfl, .nothing _⟩
  | fstatus => exact .inl ⟨_, _, _, rfl, .nothing _⟩
  | subframe d => cases hi
  | syncbit => cases hi
  | rawbyte d => cases hi

/-- What a command writes meets R49 again. -/
theorem CommandWrites.inv {p : Params} {i : Instr} {s u : State} (hw : CommandWrites s i u) (h : Inv p s) : Inv p u := by
  cases hw with
  | nothing => exact h
  | queued _ bits => exact h.withOb _ (by rw [BitFifo.pushSeq_cnt _ _ h.obCnt]; exact Nat.min_le_left _ _)
  | recvbit => exact h.withIb _ (BitFifo.pull_cnt_le _ h.ibCnt)
  | recvbyte => exact h.withIb _ (by rw [BitFifo.pullSeq_cnt]; exact (Nat.sub_le _ _).trans h.ibCnt)
  | pulse dur final => exact h.startPulse _ _
  | setinit b => exact { h with }
  | setidle t => exact { h with }
  | hsclr => exact { h with hsErr := nofun }
  | begin_ len hpos hmax => exact h.begin len hpos hmax
  | rewound => exact h.withFbIdxZero
  | ftoreset => exact { h with }

/-! ## Outcomes that complete -/

/-- The outcome is a next state that meets R49. -/
def Completes (p : Params) (o : Host.Outcome State Fault Refusal) : Prop := ∃ t, o = .next t ∧ Inv p t

section Completes

variable {p : Params} {s t : State} {o : Host.Outcome State Fault Refusal}

theorem Completes.next (h : Inv p t) : Completes p (.next t) := ⟨t, rfl, h⟩

theorem Completes.inv (ho : Completes p o) (h : o = .next t) : Inv p t := by
  obtain ⟨u, hu, hinv⟩ := ho
  cases hu.symm.trans h
  exact hinv

theorem Completes.andThen {k : State → Host.Outcome State Fault Refusal} (ho : Completes p o)
    (hk : ∀ u, Inv p u → Completes p (k u)) : Completes p (andThen o k) := by
  obtain ⟨u, rfl, hu⟩ := ho
  exact hk u hu

/-! ## The codec (phase 5) keeps R49 -/

theorem Inv.drainBit (h : Inv p s) : Inv p (drainBit s) := h.withIb _ (BitFifo.pull_cnt_le _ h.ibCnt)

/-- A frame given up leaves no sub-frame and a write index of 0; `fc_state` is free in a codec that runs (R49 (c)). -/
theorem Inv.abandonFrame (f : FcState) (c : FtoCount) (hen : s.fcEn = true) (h : Inv p s) :
    Inv p { s with ftoCnt := c, fbIdx := 0, inSub := false, bitcnt := 0, acc := 0, fcState := f } :=
  { h with
    fbIdx := Nat.zero_le _
    codecOff := fun hoff => absurd hen (Bool.eq_false_iff.1 hoff)
    inSub := nofun
    bitcnt := Nat.zero_le _
    bitcntOut := fun _ => rfl }

theorem Inv.withFcState (f : FcState) (hen : s.fcEn = true) (h : Inv p s) : Inv p { s with fcState := f } :=
  { h with codecOff := fun hoff => absurd hen (Bool.eq_false_iff.1 hoff) }

theorem Inv.closeFrame (hen : s.fcEn = true) (h : Inv p s) : Inv p (closeFrame s) := by
  unfold Machine.closeFrame
  split
  · exact h.abandonFrame _ _ hen
  · exact h.withFcState _ hen

/-- A start bit opens a sub-frame only in an incomplete frame (R184). -/
theorem Inv.startBit (b : Bool) (hen : s.fcEn = true) (hidx : s.fbIdx.toNat < s.fbLen.toNat) (h : Inv p s) :
    Inv p (startBit b s) := by
  unfold Machine.startBit
  split
  · exact { h with
      codecOff := fun hoff => absurd hen (Bool.eq_false_iff.1 hoff)
      inSub := fun _ => hidx
      bitcnt := Nat.zero_le _
      bitcntOut := nofun }
  · exact h

/-- A data bit that is not the eighth (R185). -/
theorem Inv.countBit (v : Byte) (hsub : s.inSub = true) (hne : s.bitcnt + 1 ≠ 8) (h : Inv p s) :
    Inv p { s with acc := v, bitcnt := s.bitcnt + 1 } :=
  have hle := h.bitcnt
  { h with
    bitcnt := by bv_omega
    bitcntOut := fun hout => absurd hsub (Bool.eq_false_iff.1 hout) }

/-- The eighth data bit: the store is inside the frame, hence inside the frame buffer (R186, R49 (b)). -/
theorem storeByte_completes (v : Byte) (hen : s.fcEn = true) (hidx : s.fbIdx.toNat < s.fbLen.toNat) (h : Inv p s) :
    Completes p (storeByte v s) := by
  have hmax : s.fbIdx.toNat < Config.fbMax := hidx.trans_le h.fbLen
  have hnext : (s.fbIdx + 1).toNat = s.fbIdx.toNat + 1 := by have hlen := h.fbLen; bv_omega
  rw [storeByte_inside v s hmax]
  exact .next { h with
    fbIdx := hnext.trans_le hidx
    codecOff := fun hoff => absurd hen (Bool.eq_false_iff.1 hoff)
    inSub := nofun
    bitcnt := Nat.zero_le _
    bitcntOut := fun _ => rfl
    fb := Memory.wf_write _ _ _ h.fb hmax }

theorem assembleBit_completes (b : Bool) (hen : s.fcEn = true) (h : Inv p s) : Completes p (assembleBit b s) := by
  rcases assembleBit_cases b s with ⟨-, he⟩ | ⟨hidx, ⟨-, he⟩ | ⟨hsub, hne, he⟩ | ⟨-, -, he⟩⟩ <;> rw [he]
  · exact .next h
  · exact .next (h.startBit b hen hidx)
  · exact .next (h.countBit _ hsub hne)
  · exact storeByte_completes _ hen hidx h

theorem codecPhase_completes (h : Inv p s) : Completes p (codecPhase s) := by
  rcases codecPhase_cases s with ⟨-, he⟩ | ⟨hen, ⟨-, -, he⟩ | ⟨-, -, he⟩ | ⟨b, -, -, -, he⟩ | ⟨-, -, -, he⟩
    | ⟨-, -, -, he⟩ | ⟨-, -, he⟩ | ⟨-, -, he⟩⟩ <;> rw [he]
  · exact .next h
  · exact .next h.drainBit
  · exact .next (h.abandonFrame _ _ hen)
  · exact assembleBit_completes b hen h.drainBit
  · exact .next (h.closeFrame hen)
  · exact .next h
  · exact .next h.drainBit
  · exact .next (h.withFcState _ hen)

/-! ## Every instruction completes -/

theorem receiveBits_completes (bits : List Bool) (h : Inv p s) : Completes p (receiveBits bits s) := by
  induction bits generalizing s with
  | nil => exact .next h
  | cons b bits ih =>
    have hbit : Completes p (receiveBit b s) := codecPhase_completes (h.withIb _ (BitFifo.push_cnt_le _ _ h.ibCnt))
    exact hbit.andThen fun u hu => ih hu

theorem exec_completes (i : Instr) (h : Inv p s) : Completes p (exec i s) := by
  cases hi : isCommand i with
  | true =>
    rcases exec_command i s hi with ⟨u, c, d, he, hw⟩ | ⟨-, hlen⟩
    · rw [he]; exact .next ((hw.inv h).respond c d)
    · exact absurd h.fbLen (Nat.not_le_of_lt hlen)
  | false =>
    cases i with
    | subframe d => exact receiveBits_completes _ h
    | syncbit => exact receiveBits_completes _ h
    | rawbyte d => exact receiveBits_completes _ h
    | _ => cases hi

/-! ## The channel (phase 4) keeps R49 -/

/-- A cell is started with an outbound bit, or there is none (R122, R136, R139). -/
theorem sendCell_cases (p : Params) (s : State) :
    sendCell p s = s ∨ ∃ b, sendCell p s = Machine.startPulse p.writePulse b { s with ob := s.ob.pull.2 } := by
  cases hc : s.ob.contents with
  | nil => exact .inl (sendCell_nil p s hc)
  | cons b bs => exact .inr ⟨b, sendCell_cons p s b bs hc⟩

theorem Inv.sendCell (h : Inv p s) : Inv p (sendCell p s) := by
  rcases sendCell_cases p s with he | ⟨b, he⟩ <;> rw [he]
  · exact h
  · exact (h.withOb _ (BitFifo.pull_cnt_le _ h.obCnt)).startPulse _ _

theorem Inv.withChState (c : ChState) (hf : s.frameEnd = false) (h : Inv p s) : Inv p { s with chState := c } :=
  { h with frameEnd := fun hfe => absurd hfe (Bool.eq_false_iff.1 hf) }

/-- `frame_end` is clear outside Idle (R49 (g)). -/
theorem Inv.frameEnd_eq_false (h : Inv p s) (hc : s.chState ≠ .idle) : s.frameEnd = false :=
  Bool.eq_false_iff.2 fun hf => hc (h.frameEnd hf)

theorem Inv.sampleBit (h : Inv p s) : Inv p (sampleBit s) :=
  { h with ibCnt := BitFifo.push_cnt_le _ _ h.ibCnt }

theorem startPulse_frameEnd (d : Time) (f : Bool) (s : State) : (startPulse d f s).frameEnd = s.frameEnd := by
  rw [startPulse_frame]

theorem Inv.answerSample (hf : s.frameEnd = false) (h : Inv p s) : Inv p (answerSample p s) := by
  rcases answerSample_cases p s with ⟨-, -, he⟩ | ⟨-, -, he⟩ | ⟨b, -, -, he⟩ <;> rw [he]
  · exact h.withChState _ hf
  · exact (h.startPulse _ _).withChState _ ((startPulse_frameEnd _ _ _).trans hf)
  · exact ((h.withOb _ (BitFifo.pull_cnt_le _ h.obCnt)).startPulse _ _).withChState _
      ((startPulse_frameEnd _ _ _).trans hf)

theorem Inv.channelPhase (h : Inv p s) : Inv p (channelPhase p s) := by
  rcases channelPhase_cases p s with ⟨-, he⟩ | ⟨-, ⟨-, -, he⟩ | ⟨-, -, -, he⟩ | ⟨hc, -, -, he⟩ | ⟨hc, -, he⟩
    | ⟨-, -, he⟩ | ⟨hc, -, he⟩ | ⟨-, -, hto, he⟩ | ⟨-, -, -, he⟩ | ⟨hc, -, he⟩ | ⟨-, -, he⟩⟩ <;> rw [he]
  · exact h
  · exact { h with frameEnd := nofun }
  · exact { h.sendCell with frameEnd := nofun }
  · exact { h with frameEnd := fun _ => hc }
  · exact h.sampleBit.answerSample (h.frameEnd_eq_false (by simp [hc]))
  · exact h
  · exact { h.withChState .awaitHold (h.frameEnd_eq_false (by simp [hc])) with }
  · exact { h with hsErr := fun _ => (Bool.and_eq_true_iff.1 hto).1, frameEnd := fun _ => rfl }
  · exact h
  · exact { h.withChState .awaitSample (h.frameEnd_eq_false (by simp [hc])) with }
  · exact h

/-! ## The step keeps R49 -/

theorem commandPhase_completes (i : TickInput) (h : Inv p s) : Completes p (commandPhase i s) := by
  cases hv : i.cmdValid with
  | false => rw [commandPhase_none i s hv]; exact .next (h.respond _ _)
  | true =>
    cases hd : decode (.command i.cmd) with
    | ok c => rw [commandPhase_ok i s c hv hd]; exact exec_completes c h
    | error e => rw [commandPhase_illegal i s e hv hd]; exact .next (h.respond _ _)

theorem tick_completes (i : TickInput) (h : Inv p s) : Completes p (tick p i s) := by
  unfold tick
  split
  · exact .next h.resetTick
  · refine (commandPhase_completes i (h.edgeCapture i.rx).pulseEngine).andThen fun u hu => ?_
    exact (codecPhase_completes hu.channelPhase).andThen fun v hv => .next hv.timePhase

/-- Whatever bits arrive, a wire pattern or not (R92, log 12). -/
theorem wireStep_completes (bits : List Bool) (h : Inv p s) : Completes p (wireStep bits s) := by
  unfold wireStep
  split
  · exact exec_completes _ h
  · exact receiveBits_completes _ h

/-- R49 is an invariant, and in its states the step goes on whatever its input (R110). -/
theorem stepWith_completes (h : Inv p s) : Completes p (stepWith p s) := by
  cases hin : s.inputs with
  | nil => rw [stepWith_free p s hin]; exact tick_completes _ (h.withInputs _ _)
  | cons i rest =>
    cases i with
    | tick i => rw [stepWith_tick p i rest s hin]; exact tick_completes i (h.withInputs _ _)
    | wire bits => rw [stepWith_wire p bits rest s hin]; exact wireStep_completes bits (h.withInputs _ _)

end Completes

/-! ## The obligations about R49 -/

/-- Settles O7: `exec_completes`, by what a command writes and by the receive side's treatment of each wire bit. -/
theorem everyInstructionCompletes : Obligations.EveryInstructionCompletes := by
  intro p i s hs
  obtain ⟨t, he, ht⟩ := exec_completes i ((inv_iff p s).1 hs)
  exact ⟨t, he, (inv_iff p t).2 ht⟩

/-- Settles O8: the reset values meet each clause of R49, whatever the parameters. -/
theorem invariantsHoldAtReset : Obligations.InvariantsHoldAtReset :=
  (inv_iff _ _).2 (Inv.resetWith Config.params)

/-- Settles O9: every phase of a tick and every wire input keeps R49 (`stepWith_completes`). -/
theorem stepKeepsInvariants : Obligations.StepKeepsInvariants := by
  intro s t hs hstep
  exact (inv_iff _ t).2 ((stepWith_completes ((inv_iff _ s).1 hs)).inv hstep)

end Sys2Proof.Machine
end

section
/-! The status words field by field (10_state.md R45, R46): a field is found by passing over the fields below it. -/

namespace Sys2Proof.Machine

/-- The fields of STATUS with their widths, from bit 31 down (R45). -/
theorem statusWord_extract (s : State) (start len : Nat) :
    (statusWord s).extractLsb' start len =
      @BitVec.extractLsb' (2 + 7 + 7 + 1 + 1 + 1 + 2 + 1 + 1 + 1 + 1 + 1 + 1 + 1 + 1 + 1 + 2) start len
        (0#2 ++ s.ob.cnt ++ s.ib.cnt ++ BitVec.ofBool (timeoutDetected s) ++ BitVec.ofBool (frameComplete s)
          ++ BitVec.ofBool s.inSub ++ s.fcState.bits ++ BitVec.ofBool s.fcEn ++ BitVec.ofBool s.hsErr
          ++ BitVec.ofBool s.canInit ++ BitVec.ofBool (decide (s.pulseCnt ≠ 0)) ++ BitVec.ofBool s.rxQ
          ++ BitVec.ofBool s.tx ++ BitVec.ofBool s.edgeFlag ++ BitVec.ofBool s.frameEnd ++ BitVec.ofBool s.selfInit
          ++ s.chState.bits) := rfl

/-- Each field of STATUS stands at its place, and the two reserved bits are 0 (R45). -/
theorem statusWord_fields (s : State) :
    (statusWord s).extractLsb' 0 2 = s.chState.bits
    ∧ (statusWord s).extractLsb' 2 1 = BitVec.ofBool s.selfInit
    ∧ (statusWord s).extractLsb' 3 1 = BitVec.ofBool s.frameEnd
    ∧ (statusWord s).extractLsb' 4 1 = BitVec.ofBool s.edgeFlag
    ∧ (statusWord s).extractLsb' 5 1 = BitVec.ofBool s.tx
    ∧ (statusWord s).extractLsb' 6 1 = BitVec.ofBool s.rxQ
    ∧ (statusWord s).extractLsb' 7 1 = BitVec.ofBool (decide (s.pulseCnt ≠ 0))
    ∧ (statusWord s).extractLsb' 8 1 = BitVec.ofBool s.canInit
    ∧ (statusWord s).extractLsb' 9 1 = BitVec.ofBool s.hsErr
    ∧ (statusWord s).extractLsb' 10 1 = BitVec.ofBool s.fcEn
    ∧ (statusWord s).extractLsb' 11 2 = s.fcState.bits
    ∧ (statusWord s).extractLsb' 13 1 = BitVec.ofBool s.inSub
    ∧ (statusWord s).extractLsb' 14 1 = BitVec.ofBool (frameComplete s)
    ∧ (statusWord s).extractLsb' 15 1 = BitVec.ofBool (timeoutDetected s)
    ∧ (statusWord s).extractLsb' 16 7 = s.ib.cnt
    ∧ (statusWord s).extractLsb' 23 7 = s.ob.cnt
    ∧ (statusWord s).extractLsb' 30 2 = 0 := by
  simp only [statusWord_extract]
  simp [BitVec.extractLsb'_append_eq_of_le, BitVec.extractLsb'_append_eq_of_add_le, -Nat.reduceAdd]

/-- The fields of FSTATUS with their widths, from bit 31 down (R46). -/
theorem fstatusWord_extract (s : State) (start len : Nat) :
    (fstatusWord s).extractLsb' start len =
      @BitVec.extractLsb' (2 + 8 + 4 + 9 + 9) start len (0#2 ++ s.acc ++ s.bitcnt ++ s.fbLen ++ s.fbIdx) := rfl

/-- Each field of FSTATUS stands at its place, and the two reserved bits are 0 (R46). -/
theorem fstatusWord_fields (s : State) :
    (fstatusWord s).extractLsb' 0 9 = s.fbIdx
    ∧ (fstatusWord s).extractLsb' 9 9 = s.fbLen
    ∧ (fstatusWord s).extractLsb' 18 4 = s.bitcnt
    ∧ (fstatusWord s).extractLsb' 22 8 = s.acc
    ∧ (fstatusWord s).extractLsb' 30 2 = 0 := by
  simp only [fstatusWord_extract]
  simp [BitVec.extractLsb'_append_eq_of_le, BitVec.extractLsb'_append_eq_of_add_le, -Nat.reduceAdd]

/-- A field of one bit, read as that bit. -/
theorem getLsbD_of_extractLsb'_eq_ofBool {w i : Nat} {x : BitVec w} {b : Bool}
    (h : x.extractLsb' i 1 = BitVec.ofBool b) : x.getLsbD i = b := by
  have h0 : (x.extractLsb' i 1).getLsbD 0 = b := by rw [h]; simp
  simpa using h0

/-- Settles O23: `statusWord_fields`, with a field of one bit read as a bit. -/
theorem statusAnswersEveryField : Obligations.StatusAnswersEveryField := by
  intro s
  obtain ⟨hch, hself, hend, hedge, htx, hrx, hpulse, hinit, herr, hen, hfc, hsub, hcomplete, hfto, hib, hob, hres⟩ :=
    statusWord_fields s
  refine ⟨respond .ok (statusWord s) s, rfl, rfl, fun _ => rfl, ?_, getLsbD_of_extractLsb'_eq_ofBool hself,
    getLsbD_of_extractLsb'_eq_ofBool hend, getLsbD_of_extractLsb'_eq_ofBool hedge,
    getLsbD_of_extractLsb'_eq_ofBool htx, getLsbD_of_extractLsb'_eq_ofBool hrx, ?_,
    getLsbD_of_extractLsb'_eq_ofBool hinit, getLsbD_of_extractLsb'_eq_ofBool herr,
    getLsbD_of_extractLsb'_eq_ofBool hen, ?_, getLsbD_of_extractLsb'_eq_ofBool hsub, ?_, ?_, hib, hob, hres⟩
  · rw [respond_respData, hch]; cases s.chState <;> rfl
  · rw [respond_respData, getLsbD_of_extractLsb'_eq_ofBool hpulse, decide_eq_true_eq]
  · rw [respond_respData, hfc]; cases s.fcState <;> rfl
  · rw [respond_respData, getLsbD_of_extractLsb'_eq_ofBool hcomplete, frameComplete, Bool.and_eq_true,
      decide_eq_true_eq]
  · rw [respond_respData, getLsbD_of_extractLsb'_eq_ofBool hfto, timeoutDetected, decide_eq_true_eq]

/-- Settles O24: the answer is the word of `fstatusWord_fields`. -/
theorem fstatusAnswersEveryField : Obligations.FstatusAnswersEveryField := fun s =>
  ⟨respond .ok (fstatusWord s) s, rfl, rfl, fun _ => rfl, fstatusWord_fields s⟩

end Sys2Proof.Machine
end

section
/-! Who writes what (10_state.md R48): the frame of each phase, what survives a whole tick without reset, and the
obligations about the registers' owners. -/

namespace Sys2Proof.Machine

/-! ## The frame of the channel phase -/

/-- A cell is `ob` and a pulse (R80, R132). -/
theorem sendCell_frame (p : Params) (s : State) :
    sendCell p s = { s with
      ob := (sendCell p s).ob
      tx := (sendCell p s).tx
      pulseCnt := (sendCell p s).pulseCnt
      pulseFinal := (sendCell p s).pulseFinal } := by
  rcases sendCell_cases p s with he | ⟨b, he⟩ <;> rw [he]
  rw [startPulse_frame]

theorem initiateSession_frame (p : Params) (s : State) :
    initiateSession p s = { s with
      ob := (initiateSession p s).ob
      tx := (initiateSession p s).tx
      pulseCnt := (initiateSession p s).pulseCnt
      pulseFinal := (initiateSession p s).pulseFinal
      selfInit := true, frameEnd := false, tLast := s.now, chState := .awaitAck } := by
  unfold initiateSession
  rw [sendCell_frame]

theorem answerSample_frame (p : Params) (s : State) :
    answerSample p s = { s with
      ob := (answerSample p s).ob
      tx := (answerSample p s).tx
      pulseCnt := (answerSample p s).pulseCnt
      pulseFinal := (answerSample p s).pulseFinal
      chState := (answerSample p s).chState } := by
  rcases answerSample_cases p s with ⟨-, -, he⟩ | ⟨-, -, he⟩ | ⟨b, -, -, he⟩ <;> rw [he]
  · rw [startPulse_frame]
  · rw [startPulse_frame]

/-- The channel phase writes the queues and the channel's own registers (R48). -/
theorem channelPhase_frame (p : Params) (s : State) :
    channelPhase p s = { s with
      ib := (channelPhase p s).ib
      ob := (channelPhase p s).ob
      chState := (channelPhase p s).chState
      selfInit := (channelPhase p s).selfInit
      frameEnd := (channelPhase p s).frameEnd
      edgeFlag := (channelPhase p s).edgeFlag
      hsErr := (channelPhase p s).hsErr
      tLast := (channelPhase p s).tLast
      tx := (channelPhase p s).tx
      pulseCnt := (channelPhase p s).pulseCnt
      pulseFinal := (channelPhase p s).pulseFinal } := by
  rcases channelPhase_cases p s with ⟨-, he⟩ | ⟨-, ⟨-, -, he⟩ | ⟨-, -, -, he⟩ | ⟨-, -, -, he⟩ | ⟨-, -, he⟩
    | ⟨-, -, he⟩ | ⟨-, -, he⟩ | ⟨-, -, -, he⟩ | ⟨-, -, -, he⟩ | ⟨-, -, he⟩ | ⟨-, -, he⟩⟩ <;> rw [he]
  · rfl
  · rw [initiateSession_frame]
  · rw [answerSample_frame]; rfl

@[simp] theorem channelPhase_canInit (p : Params) (s : State) : (channelPhase p s).canInit = s.canInit := by
  rw [channelPhase_frame]
@[simp] theorem channelPhase_idleTo (p : Params) (s : State) : (channelPhase p s).idleTo = s.idleTo := by
  rw [channelPhase_frame]
@[simp] theorem channelPhase_fbLen (p : Params) (s : State) : (channelPhase p s).fbLen = s.fbLen := by
  rw [channelPhase_frame]
@[simp] theorem channelPhase_fcEn (p : Params) (s : State) : (channelPhase p s).fcEn = s.fcEn := by
  rw [channelPhase_frame]
@[simp] theorem channelPhase_ftoCnt (p : Params) (s : State) : (channelPhase p s).ftoCnt = s.ftoCnt := by
  rw [channelPhase_frame]

/-- The channel never clears `hs_err` (R29, R141). -/
theorem channelPhase_hsErr (p : Params) (s : State) (h : s.hsErr = true) : (channelPhase p s).hsErr = true := by
  rcases channelPhase_cases p s with ⟨-, he⟩ | ⟨-, ⟨-, -, he⟩ | ⟨-, -, -, he⟩ | ⟨-, -, -, he⟩ | ⟨-, -, he⟩
    | ⟨-, -, he⟩ | ⟨-, -, he⟩ | ⟨-, -, -, he⟩ | ⟨-, -, -, he⟩ | ⟨-, -, he⟩ | ⟨-, -, he⟩⟩ <;> rw [he]
  case inr.inr.inl => rw [initiateSession_frame]; exact h
  case inr.inr.inr.inr.inl => rw [answerSample_frame]; exact h
  all_goals exact h

/-! ## The frame of the codec phase -/

/-- `CodecWrites s t`: from `s` to `t` only `ib` and the codec's own registers changed, and at most the byte at the write
index (R48, R180). -/
def CodecWrites (s t : State) : Prop :=
  t = { s with
    ib := t.ib, fcState := t.fcState, fbIdx := t.fbIdx, inSub := t.inSub, acc := t.acc, bitcnt := t.bitcnt
    ftoCnt := t.ftoCnt, fb := t.fb }
  ∧ ∀ a, a ≠ s.fbIdx.toNat → t.fbByte a = s.fbByte a

/-- Without a store no byte changes. -/
theorem CodecWrites.of_fb_eq {s t : State}
    (h : t = { s with
      ib := t.ib, fcState := t.fcState, fbIdx := t.fbIdx, inSub := t.inSub, acc := t.acc, bitcnt := t.bitcnt
      ftoCnt := t.ftoCnt, fb := s.fb }) : CodecWrites s t := by
  have hfb : t.fb = s.fb := by rw [h]
  refine ⟨hfb ▸ h, fun a _ => State.fbByte_congr s t hfb ?_ a⟩
  rw [h]

theorem storeByte_eq_next {v : Byte} {s t : State} (h : storeByte v s = .next t) :
    t = { s with
      fb := Memory.write s.fb s.fbIdx.toNat v, fbIdx := s.fbIdx + 1, acc := v, inSub := false, bitcnt := 0 } := by
  unfold storeByte at h
  split at h <;> cases h
  rfl

theorem closeFrame_frame (s : State) :
    closeFrame s = { s with
      ftoCnt := (closeFrame s).ftoCnt
      fbIdx := (closeFrame s).fbIdx
      inSub := (closeFrame s).inSub
      bitcnt := (closeFrame s).bitcnt
      acc := (closeFrame s).acc
      fcState := .frameEnd } := by
  unfold closeFrame; split <;> rfl

theorem startBit_frame (b : Bool) (s : State) :
    startBit b s = { s with
      inSub := (startBit b s).inSub
      bitcnt := (startBit b s).bitcnt
      acc := (startBit b s).acc } := by
  unfold startBit; split <;> rfl

/-- The assembler writes the codec's registers, not the timeout counter, and at most the byte at the write index
(R183 to R186). -/
theorem assembleBit_writes {b : Bool} {s t : State} (h : assembleBit b s = .next t) :
    CodecWrites s t ∧ t.ftoCnt = s.ftoCnt := by
  rcases assembleBit_cases b s with ⟨-, he⟩ | ⟨-, ⟨-, he⟩ | ⟨-, -, he⟩ | ⟨-, -, he⟩⟩ <;> rw [he] at h
  · cases h; exact ⟨.of_fb_eq rfl, rfl⟩
  · cases h; rw [startBit_frame]; exact ⟨.of_fb_eq rfl, rfl⟩
  · cases h; exact ⟨.of_fb_eq rfl, rfl⟩
  · rw [storeByte_eq_next h]
    exact ⟨⟨rfl, fun a ha => Memory.byte_write_other _ _ _ _ _ ha⟩, rfl⟩

/-- The codec phase writes `ib`, the codec's registers and at most the byte at the write index (R48, R180). -/
theorem codecPhase_writes {s t : State} (h : codecPhase s = .next t) : CodecWrites s t := by
  rcases codecPhase_cases s with ⟨-, he⟩ | ⟨-, ⟨-, -, he⟩ | ⟨-, -, he⟩ | ⟨b, -, -, -, he⟩ | ⟨-, -, -, he⟩
    | ⟨-, -, -, he⟩ | ⟨-, -, he⟩ | ⟨-, -, he⟩⟩ <;> rw [he] at h
  case inr.inr.inr.inl =>
    obtain ⟨⟨hframe, hbytes⟩, -⟩ := assembleBit_writes h
    exact ⟨hframe, hbytes⟩
  case inr.inr.inr.inr.inl => cases h; rw [closeFrame_frame]; exact .of_fb_eq rfl
  all_goals cases h; exact .of_fb_eq rfl

/-- The codec phase counts at most one frame timeout and forgets none (R42, R187). -/
theorem codecPhase_ftoCnt {s t : State} (h : codecPhase s = .next t) :
    s.ftoCnt.toNat ≤ t.ftoCnt.toNat ∧ t.ftoCnt.toNat ≤ s.ftoCnt.toNat + 1 := by
  rcases codecPhase_cases s with ⟨-, he⟩ | ⟨-, ⟨-, -, he⟩ | ⟨-, -, he⟩ | ⟨b, -, -, -, he⟩ | ⟨-, -, -, he⟩
    | ⟨-, -, -, he⟩ | ⟨-, -, he⟩ | ⟨-, -, he⟩⟩ <;> rw [he] at h
  case inr.inr.inr.inl =>
    obtain ⟨-, hfto⟩ := assembleBit_writes h
    rw [hfto]; exact ⟨le_rfl, Nat.le_succ _⟩
  case inr.inr.inr.inr.inl =>
    cases h
    unfold closeFrame
    split
    · have hlt := s.ftoCnt.toNat_lt
      have hinc := satInc_toNat s.ftoCnt
      constructor <;> dsimp only <;> omega
    · exact ⟨le_rfl, Nat.le_succ _⟩
  all_goals cases h; exact ⟨le_rfl, Nat.le_succ _⟩

/-- Settles O52: `channelPhase_frame` and `codecPhase_writes`. -/
theorem phasesWriteOnlyTheirOwnState : Obligations.PhasesWriteOnlyTheirOwnState := by
  refine ⟨fun p s t h => ?_, fun s t h => codecPhase_writes h⟩
  subst h
  have hfb : (channelPhase p s).fb = s.fb := by rw [channelPhase_frame]
  have hpower : (channelPhase p s).fbPower = s.fbPower := by rw [channelPhase_frame]
  exact ⟨channelPhase_frame p s, State.fbByte_congr s _ hfb hpower⟩

/-! ## The command of a tick -/

/-- A format answers an instruction of its own kind (R87). -/
theorem formatN_eq_ok {op : BitVec 8} {arg : Word} {c i : Instr} (h : formatN op arg c = .ok i) : i = c := by
  unfold formatN at h
  split at h <;> cases h
  rfl

theorem formatB_eq_ok {op : BitVec 8} {arg : Word} {c : Bool → Instr} {i : Instr} (h : formatB op arg c = .ok i) :
    ∃ b, i = c b := by
  unfold formatB at h
  split at h <;> cases h
  exact ⟨_, rfl⟩

theorem formatY_eq_ok {op : BitVec 8} {arg : Word} {c : Byte → Instr} {i : Instr} (h : formatY op arg c = .ok i) :
    ∃ v, i = c v := by
  unfold formatY at h
  split at h <;> cases h
  exact ⟨_, rfl⟩

theorem formatT_eq_ok {arg : Word} {c : Nat → Instr} {i : Instr} (h : formatT arg c = .ok i) :
    ∃ t < 2 ^ 32, i = c t := by
  cases h
  exact ⟨_, arg.isLt, rfl⟩

theorem formatP_eq_ok {arg : Word} {c : Nat → Bool → Instr} {i : Instr} (h : formatP arg c = .ok i) :
    ∃ dur < 2 ^ 31, ∃ final, i = c dur final := by
  cases h
  exact ⟨_, BitVec.isLt _, _, rfl⟩

theorem formatL_eq_ok {op : BitVec 8} {arg : Word} {c : Nat → Instr} {i : Instr} (h : formatL op arg c = .ok i) :
    ∃ n < 2 ^ 16, i = c n := by
  unfold formatL at h
  split at h <;> cases h
  exact ⟨_, BitVec.isLt _, rfl⟩

/-- A command word decodes to one of the 21 commands, with operands that fit their fields (R87, R90). -/
theorem decode_command_eq_ok {w : CmdWord} {i : Instr} (h : decode (.command w) = .ok i) :
    isCommand i = true ∧ i.wf = true := by
  change decodeCommand w = .ok i at h
  unfold decodeCommand at h
  dsimp only at h
  split at h
  · cases formatN_eq_ok h; exact ⟨rfl, rfl⟩
  · obtain ⟨b, rfl⟩ := formatB_eq_ok h; exact ⟨rfl, rfl⟩
  · obtain ⟨v, rfl⟩ := formatY_eq_ok h; exact ⟨rfl, rfl⟩
  · obtain ⟨v, rfl⟩ := formatY_eq_ok h; exact ⟨rfl, decide_eq_true v.isLt⟩
  · cases formatN_eq_ok h; exact ⟨rfl, rfl⟩
  · cases formatN_eq_ok h; exact ⟨rfl, rfl⟩
  · obtain ⟨dur, hdur, final, rfl⟩ := formatP_eq_ok h; exact ⟨rfl, decide_eq_true hdur⟩
  · obtain ⟨b, rfl⟩ := formatB_eq_ok h; exact ⟨rfl, rfl⟩
  · obtain ⟨t, ht, rfl⟩ := formatT_eq_ok h; exact ⟨rfl, decide_eq_true ht⟩
  · cases formatN_eq_ok h; exact ⟨rfl, rfl⟩
  · obtain ⟨n, hn, rfl⟩ := formatL_eq_ok h; exact ⟨rfl, decide_eq_true hn⟩
  · obtain ⟨v, rfl⟩ := formatY_eq_ok h; exact ⟨rfl, rfl⟩
  · cases formatN_eq_ok h; exact ⟨rfl, rfl⟩
  · cases formatN_eq_ok h; exact ⟨rfl, rfl⟩
  · cases formatN_eq_ok h; exact ⟨rfl, rfl⟩
  · obtain ⟨n, hn, rfl⟩ := formatL_eq_ok h; exact ⟨rfl, decide_eq_true hn⟩
  · cases formatN_eq_ok h; exact ⟨rfl, rfl⟩
  · cases formatN_eq_ok h; exact ⟨rfl, rfl⟩
  · cases formatN_eq_ok h; exact ⟨rfl, rfl⟩
  · cases formatN_eq_ok h; exact ⟨rfl, rfl⟩
  · cases formatN_eq_ok h; exact ⟨rfl, rfl⟩
  · cases h

/-- What the command phase can do: it answers, after one command has written its registers or nothing has (R91, R103). -/
theorem commandPhase_eq_next {i : TickInput} {s t : State} (h : commandPhase i s = .next t) :
    ∃ u c d, t = respond c d u
      ∧ (u = s ∨ i.cmdValid = true ∧ ∃ k, decode (.command i.cmd) = .ok k ∧ k.wf = true ∧ CommandWrites s k u) := by
  cases hv : i.cmdValid with
  | false =>
    rw [commandPhase_none i s hv] at h
    cases h
    exact ⟨s, _, _, rfl, .inl rfl⟩
  | true =>
    cases hd : decode (.command i.cmd) with
    | error e =>
      rw [commandPhase_illegal i s e hv hd] at h
      cases h
      exact ⟨s, _, _, rfl, .inl rfl⟩
    | ok k =>
      rw [commandPhase_ok i s k hv hd] at h
      obtain ⟨hcmd, hwf⟩ := decode_command_eq_ok hd
      rcases exec_command k s hcmd with ⟨u, c, d, he, hw⟩ | ⟨he, -⟩
      · cases he.symm.trans h
        exact ⟨u, c, d, rfl, .inr ⟨rfl, k, rfl, hwf, hw⟩⟩
      · cases he.symm.trans h

/-! ## What a command leaves of the control registers -/

section CommandWrites

variable {k : Instr} {s u : State}

theorem CommandWrites.canInit (h : CommandWrites s k u) :
    u.canInit = s.canInit ∨ ∃ b, k = .setinit b ∧ u.canInit = b := by
  cases h with
  | setinit b => exact .inr ⟨b, rfl, rfl⟩
  | pulse => rw [startPulse_frame]; exact .inl rfl
  | _ => exact .inl rfl

theorem CommandWrites.idleTo (h : CommandWrites s k u) :
    u.idleTo = s.idleTo ∨ ∃ t, k = .setidle t ∧ u.idleTo = tickOperand t := by
  cases h with
  | setidle t => exact .inr ⟨t, rfl, rfl⟩
  | pulse => rw [startPulse_frame]; exact .inl rfl
  | _ => exact .inl rfl

theorem CommandWrites.fbLen (h : CommandWrites s k u) :
    u.fbLen = s.fbLen ∨ ∃ len, k = .begin_ len ∧ u.fbLen.toNat = len := by
  cases h with
  | begin_ len _ hmax => exact .inr ⟨len, rfl, lenOperand_toNat len hmax⟩
  | pulse => rw [startPulse_frame]; exact .inl rfl
  | _ => exact .inl rfl

theorem CommandWrites.hsErr (h : CommandWrites s k u) : u.hsErr = s.hsErr ∨ k = .hsclr := by
  cases h with
  | hsclr => exact .inr rfl
  | pulse => rw [startPulse_frame]; exact .inl rfl
  | _ => exact .inl rfl

theorem CommandWrites.fcEn (h : CommandWrites s k u) : u.fcEn = s.fcEn ∨ u.fcEn = true := by
  cases h with
  | begin_ => exact .inr rfl
  | pulse => rw [startPulse_frame]; exact .inl rfl
  | _ => exact .inl rfl

theorem CommandWrites.ftoCnt (h : CommandWrites s k u) : u.ftoCnt = s.ftoCnt ∨ k = .ftoreset := by
  cases h with
  | ftoreset => exact .inr rfl
  | pulse => rw [startPulse_frame]; exact .inl rfl
  | _ => exact .inl rfl

end CommandWrites

/-! ## The tick, phase by phase -/

/-- A tick without reset that goes on is its phases in order (R100). -/
theorem tick_eq_next {p : Params} {i : TickInput} {s t : State} (hrst : i.rst = false) (h : tick p i s = .next t) :
    ∃ u v, commandPhase i (beforeCommand i.rx s) = .next u ∧ codecPhase (channelPhase p u) = .next v
      ∧ t = timePhase v := by
  rw [tick, hrst] at h
  obtain ⟨u, hu, h⟩ := (andThen_eq_next _ _ _).1 h
  obtain ⟨v, hv, h⟩ := (andThen_eq_next _ _ _).1 h
  cases h
  exact ⟨u, v, hu, hv, rfl⟩

/-- Phases 1 and 2 write the edge detector, the line and the pulse engine (R131, R133). -/
theorem beforeCommand_frame (rx : Bool) (s : State) :
    beforeCommand rx s = { s with
      edgeFlag := (beforeCommand rx s).edgeFlag
      rxQ := rx
      tx := (beforeCommand rx s).tx
      pulseCnt := (beforeCommand rx s).pulseCnt
      pulseBusy := (beforeCommand rx s).pulseBusy } := by
  unfold beforeCommand pulseEngine
  split <;> rfl

/-- Phases 4 to 6 keep the registers the commands own, and never clear `hs_err` (R48). -/
theorem afterCommand_controlRegisters {p : Params} {u v : State} (h : codecPhase (channelPhase p u) = .next v) :
    v.canInit = u.canInit ∧ v.idleTo = u.idleTo ∧ v.fbLen = u.fbLen ∧ v.fcEn = u.fcEn
      ∧ (u.hsErr = true → v.hsErr = true) := by
  obtain ⟨hv, -⟩ := codecPhase_writes h
  rw [hv]
  exact ⟨channelPhase_canInit p u, channelPhase_idleTo p u, channelPhase_fbLen p u, channelPhase_fcEn p u,
    channelPhase_hsErr p u⟩

/-! ## The obligations about the registers' owners -/

/-- Settles O54: only the command phase writes these registers but `hs_err`, which the channel only sets; and what a
command writes is told apart by `CommandWrites`. -/
theorem controlRegistersChangeOnlyByTheirCommand : Obligations.ControlRegistersChangeOnlyByTheirCommand := by
  intro p i s t hrst h
  obtain ⟨u, v, hcmd, hcodec, rfl⟩ := tick_eq_next hrst h
  obtain ⟨hinit, hidle, hlen, hen, herr⟩ := afterCommand_controlRegisters hcodec
  obtain ⟨w, c, d, rfl, hw⟩ := commandPhase_eq_next hcmd
  simp only [timePhase_canInit, timePhase_idleTo, timePhase_fbLen, timePhase_hsErr, timePhase_fcEn, hinit, hidle, hlen,
    hen, respond_canInit, respond_idleTo, respond_fbLen, respond_fcEn]
  rw [respond_hsErr] at herr
  rw [beforeCommand_frame] at hw
  rcases hw with rfl | ⟨hvalid, k, hk, hwf, hw⟩
  · exact ⟨.inl rfl, .inl rfl, .inl rfl, fun hs => .inl (herr hs), id⟩
  · refine ⟨?_, ?_, ?_, ?_, ?_⟩
    · exact hw.canInit.imp_right fun ⟨b, hb, he⟩ => ⟨hvalid, b, hb ▸ hk, he⟩
    · refine hw.idleTo.imp_right fun ⟨n, hn, he⟩ => ⟨hvalid, n, hn ▸ hk, ?_⟩
      subst hn
      rw [he, tickOperand_toNat n (of_decide_eq_true hwf)]
    · exact hw.fbLen.imp_right fun ⟨n, hn, he⟩ => ⟨hvalid, n, hn ▸ hk, he⟩
    · exact fun hs => hw.hsErr.imp (fun he => herr (he.trans hs)) fun (hclr : k = .hsclr) => ⟨hvalid, hclr ▸ hk⟩
    · exact fun hs => hw.fcEn.elim (fun he => he.trans hs) id

/-- Settles O55: outside FTORESET only the codec phase writes the counter, and it adds at most one
(`codecPhase_ftoCnt`). -/
theorem frameTimeoutCounterIsMonotone : Obligations.FrameTimeoutCounterIsMonotone := by
  intro p i s t hrst h hno
  obtain ⟨u, v, hcmd, hcodec, rfl⟩ := tick_eq_next hrst h
  have hcount := codecPhase_ftoCnt hcodec
  suffices hu : u.ftoCnt = s.ftoCnt by rwa [channelPhase_ftoCnt, hu] at hcount
  obtain ⟨w, c, d, rfl, hw⟩ := commandPhase_eq_next hcmd
  rw [beforeCommand_frame] at hw
  rcases hw with rfl | ⟨hvalid, k, hk, -, hw⟩
  · rfl
  · exact hw.ftoCnt.resolve_right fun hreset => hno ⟨hvalid, hreset ▸ hk⟩

end Sys2Proof.Machine
end

section
/-! What an instruction leaves unchanged (43_bitchannel_cmds.md, 60_exceptions.md): the frame of every command and of the
wire patterns, what a command that fails did, and what becomes of a captured edge. -/

namespace Sys2Proof.Machine

/-! ## The frame of an instruction -/

/-- A command leaves the channel's protocol registers, the frame buffer and the time as they were (R48, R60, R69). -/
theorem CommandWrites.frame {k : Instr} {s u : State} (h : CommandWrites s k u) :
    u = { s with
      ib := u.ib, ob := u.ob, tx := u.tx, pulseCnt := u.pulseCnt, pulseFinal := u.pulseFinal, canInit := u.canInit
      idleTo := u.idleTo, hsErr := u.hsErr, fcEn := u.fcEn, fcState := u.fcState, fbLen := u.fbLen, fbIdx := u.fbIdx
      inSub := u.inSub, acc := u.acc, bitcnt := u.bitcnt, ftoCnt := u.ftoCnt } := by
  cases h with
  | pulse => rw [startPulse_frame]
  | _ => rfl

/-- Only PULSE touches the line and the pulse engine (R69, R169). -/
theorem CommandWrites.line {k : Instr} {s u : State} (h : CommandWrites s k u)
    (hk : ∀ dur final, k ≠ .pulse dur final) :
    u.tx = s.tx ∧ u.pulseCnt = s.pulseCnt ∧ u.pulseFinal = s.pulseFinal := by
  cases h with
  | pulse dur final => exact absurd rfl (hk dur final)
  | _ => exact ⟨rfl, rfl, rfl⟩

/-- A command that goes on has written its registers and answered (R88, R103). -/
theorem exec_command_eq_next {i : Instr} {s t : State} (hi : isCommand i = true) (h : exec i s = .next t) :
    ∃ u c d, t = respond c d u ∧ CommandWrites s i u := by
  rcases exec_command i s hi with ⟨u, c, d, he, hw⟩ | ⟨he, -⟩
  · cases he.symm.trans h
    exact ⟨u, c, d, rfl, hw⟩
  · cases he.symm.trans h

/-- Inbound bits reach `ib`, the codec's registers and the frame buffer, and nothing else (R180, log 1). -/
theorem receiveBits_frame {bits : List Bool} {s t : State} (h : receiveBits bits s = .next t) :
    t = { s with
      ib := t.ib, fcState := t.fcState, fbIdx := t.fbIdx, inSub := t.inSub, acc := t.acc, bitcnt := t.bitcnt
      ftoCnt := t.ftoCnt, fb := t.fb } := by
  induction bits generalizing s with
  | nil => cases h; rfl
  | cons b bits ih =>
    obtain ⟨u, hbit, hrest⟩ := (andThen_eq_next _ _ _).1 h
    obtain ⟨hu, -⟩ := codecPhase_writes hbit
    have ht := ih hrest
    rw [hu] at ht
    exact ht

/-- An instruction that is no command is received bit by bit (R82, R83, R85; log 1). -/
theorem exec_wirePattern {i : Instr} (hi : isCommand i = false) (s : State) : ∃ bits, exec i s = receiveBits bits s := by
  cases i with
  | subframe d => exact ⟨_, rfl⟩
  | syncbit => exact ⟨_, rfl⟩
  | rawbyte d => exact ⟨_, rfl⟩
  | _ => cases hi

/-- Settles O28: by the frame of what a command writes, and by the frame of the receive side for a wire pattern. -/
theorem instructionsLeaveTheProtocolAlone : Obligations.InstructionsLeaveTheProtocolAlone := by
  intro i s t h
  cases hi : isCommand i with
  | true =>
    obtain ⟨u, c, d, rfl, hw⟩ := exec_command_eq_next hi h
    have hline := hw.line
    rw [hw.frame] at hline ⊢
    exact ⟨rfl, rfl, rfl, rfl, rfl, rfl, rfl, hline⟩
  | false =>
    obtain ⟨bits, hbits⟩ := exec_wirePattern hi s
    rw [receiveBits_frame (hbits.symm.trans h)]
    exact ⟨rfl, rfl, rfl, rfl, rfl, rfl, rfl, fun _ => ⟨rfl, rfl, rfl⟩⟩

/-! ## Commands that fail -/

/-- A bit that does not fit leaves the queue as it was (R121, R161). -/
theorem BitFifo.pushSeq_singleton_failed (f : BitFifo) (b : Bool) (h : (f.pushSeq [b]).2 = false) :
    (f.pushSeq [b]).1 = f := by
  have hpush : (f.push b).2 = false := by simpa [BitFifo.pushSeq] using h
  change (f.push b).1 = f
  unfold BitFifo.push at hpush ⊢
  split at hpush
  · next hfull => rw [if_pos hfull]
  · cases hpush

/-- `enqueue` fails only with FULL and data 0, the bits that fitted queued (R127, R161, R162, R201). -/
theorem enqueue_failed {bits : List Bool} {s : State} (h : (enqueue bits s).respCode ≠ .ok) :
    (s.ob.pushSeq bits).2 = false ∧ enqueue bits s = respond .full 0 { s with ob := (s.ob.pushSeq bits).1 } := by
  cases hall : (s.ob.pushSeq bits).2 with
  | true => exact absurd (by simp [enqueue, hall]) h
  | false => exact ⟨rfl, by simp [enqueue, hall]⟩

/-- A refusal before a rule that answers OK: if the whole fails, the refusal answered. -/
theorem failed_of_guard {g : Prop} [Decidable g] {c : RespCode} {s t : State} {o : Host.Outcome State Fault Refusal}
    (h : (if g then .next (respond c 0 s) else o) = .next t) (hok : o = .next t → t.respCode = .ok)
    (hf : t.respCode ≠ .ok) : ∃ e, t = respond e 0 s := by
  split at h
  · cases h; exact ⟨c, rfl⟩
  · exact absurd (hok h) hf

/-- A command that fails has only answered, with data 0; or it is a SENDBYTE or SENDSF that found the queue full on the
way (R88, R221, R232). -/
theorem exec_failed {i : Instr} {s t : State} (hi : isCommand i = true) (h : exec i s = .next t)
    (hf : t.respCode ≠ .ok) :
    (∃ c, t = respond c 0 s) ∨ isSequenceSend i = true ∧ ∃ ob, t = respond .full 0 { s with ob := ob } := by
  cases i with
  | sendbit b =>
    cases h
    obtain ⟨hfull, he⟩ := enqueue_failed hf
    rw [BitFifo.pushSeq_singleton_failed _ _ hfull] at he
    exact .inl ⟨_, he⟩
  | sendbyte v => cases h; exact .inr ⟨rfl, _, (enqueue_failed hf).2⟩
  | sendsf v => cases h; exact .inr ⟨rfl, _, (enqueue_failed hf).2⟩
  | recvbit =>
    rw [exec, execRecvbit] at h
    split at h <;> cases h
    · exact absurd rfl hf
    · exact .inl ⟨_, rfl⟩
  | recvbyte => exact .inl (failed_of_guard h (fun ho => by cases ho; rfl) hf)
  | pulse dur final => exact .inl (failed_of_guard h (fun ho => by cases ho; rfl) hf)
  | begin_ len => exact .inl (failed_of_guard h (fun ho => by cases ho; rfl) hf)
  | fbread idx => exact .inl (failed_of_guard h (fun ho => by split at ho <;> cases ho; rfl) hf)
  | subframe d => cases hi
  | syncbit => cases hi
  | rawbyte d => cases hi
  | _ => cases h; exact absurd rfl hf

/-- Settles O29: the frame of a command for the frame buffer, and `exec_failed` for a failure. -/
theorem failedCommandsChangeNothing : Obligations.FailedCommandsChangeNothing := by
  intro i s t hi h
  obtain ⟨u, c, d, ht, hw⟩ := exec_command_eq_next hi h
  have hfb : t.fb = s.fb := by rw [ht, hw.frame]; rfl
  have hpower : t.fbPower = s.fbPower := by rw [ht, hw.frame]; rfl
  refine ⟨hfb, State.fbByte_congr s t hfb hpower, fun hf => ?_⟩
  rcases exec_failed hi h hf with ⟨e, rfl⟩ | ⟨hsend, ob, rfl⟩
  · exact ⟨rfl, .inl rfl⟩
  · exact ⟨rfl, .inr ⟨rfl, hsend, rfl⟩⟩

/-! ## What becomes of a captured edge -/

/-- Phases 1 and 2 leave the flag set when it was set or `rx` rose (R131). -/
theorem beforeCommand_edgeFlag {rx : Bool} {s : State} (h : (rx = true ∧ s.rxQ = false) ∨ s.edgeFlag = true) :
    (beforeCommand rx s).edgeFlag = true := by
  have hcapture : (edgeCapture rx s).edgeFlag = true := by
    rcases h with ⟨hrx, hq⟩ | hflag
    · simp [edgeCapture, hrx, hq]
    · simp [edgeCapture, hflag]
  unfold beforeCommand pulseEngine
  split <;> exact hcapture

/-- The command phase leaves the channel's state, the flag and the time to the channel (R48, R69). -/
theorem commandPhase_keepsEdge {i : TickInput} {s t : State} (h : commandPhase i s = .next t) :
    t.chState = s.chState ∧ t.edgeFlag = s.edgeFlag ∧ t.now = s.now := by
  obtain ⟨u, c, d, rfl, hu⟩ := commandPhase_eq_next h
  rcases hu with rfl | ⟨-, k, -, -, hw⟩
  · exact ⟨rfl, rfl, rfl⟩
  · rw [hw.frame]; exact ⟨rfl, rfl, rfl⟩

/-- The channel consumes a pending edge in Idle or AwaitingPeerAck, and keeps it everywhere else (R75, R135, R140). -/
theorem channelPhase_pendingEdge (p : Params) (s : State) (h : s.edgeFlag = true) :
    (channelPhase p s).edgeFlag = true
    ∨ ((channelPhase p s).tLast = s.now
        ∧ ((s.chState = .idle ∧ (channelPhase p s).chState = .awaitSample)
          ∨ (s.chState = .awaitAck ∧ (channelPhase p s).chState = .awaitHold))) := by
  have hpending : s.edgeFlag ≠ false := by rw [h]; decide
  rcases channelPhase_cases p s with ⟨-, he⟩ | ⟨-, ⟨hc, -, he⟩ | ⟨-, hno, -⟩ | ⟨-, hno, -⟩ | ⟨-, -, he⟩
    | ⟨-, -, he⟩ | ⟨hc, -, he⟩ | ⟨-, hno, -⟩ | ⟨-, hno, -⟩ | ⟨-, -, he⟩ | ⟨-, -, he⟩⟩
  · rw [he]; exact .inl h
  · rw [he]; exact .inr ⟨rfl, .inl ⟨hc, rfl⟩⟩
  · exact absurd hno hpending
  · exact absurd hno hpending
  · rw [he, answerSample_frame]; exact .inl h
  · rw [he]; exact .inl h
  · rw [he]; exact .inr ⟨rfl, .inr ⟨hc, rfl⟩⟩
  · exact absurd hno hpending
  · exact absurd hno hpending
  · rw [he]; exact .inl h
  · rw [he]; exact .inl h

/-- Settles O37: the edge is captured before the channel runs, the channel consumes it or keeps it
(`channelPhase_pendingEdge`), and no other phase touches it. -/
theorem risingEdgeIsConsumedOrPending : Obligations.RisingEdgeIsConsumedOrPending := by
  intro p i s t hrst h hedge
  obtain ⟨u, v, hcmd, hcodec, rfl⟩ := tick_eq_next hrst h
  obtain ⟨hstate, hflag, hnow⟩ := commandPhase_keepsEdge hcmd
  have hpending := channelPhase_pendingEdge p u (hflag.trans (beforeCommand_edgeFlag hedge))
  rw [hstate, hnow, beforeCommand_frame] at hpending
  obtain ⟨hv, -⟩ := codecPhase_writes hcodec
  rw [hv]
  exact hpending

end Sys2Proof.Machine
end

section
/-! The encoding (30_encoding.md R82 to R93): each operand format read back from what `encode` writes, each opcode with
its format, and the obligations about codes and illegal words. -/

namespace Sys2Proof

open Machine

/-! ## Operand fields as numbers -/

/-- An operand with its bits from `k` up all 0 is its field of the low `k` bits (R87). -/
theorem setWidth_extractLsb'_zero_of_lt {k : Nat} {arg : Word} (h : arg.toNat < 2 ^ k) :
    (arg.extractLsb' 0 k).setWidth 32 = arg := by
  apply BitVec.eq_of_toNat_eq
  rw [BitVec.toNat_setWidth, BitVec.extractLsb'_toNat, Nat.shiftRight_zero, Nat.mod_eq_of_lt h, Nat.mod_eq_of_lt arg.isLt]

/-- A bit as a field of width 1. -/
theorem ofBool_getLsbD {w : Nat} (x : BitVec w) (i : Nat) : BitVec.ofBool (x.getLsbD i) = x.extractLsb' i 1 := by
  rw [BitVec.getLsbD_eq_extractLsb']
  generalize x.extractLsb' i 1 = b
  revert b; decide

/-- The bits from `k` up are all 0 exactly when the operand fits `k` bits (R87). -/
theorem extractLsb'_high_eq_zero_iff {k n : Nat} (hk : k + n = 32) (arg : Word) :
    arg.extractLsb' k n = 0 ↔ arg.toNat < 2 ^ k := by
  have hlt : arg.toNat >>> k < 2 ^ n := by
    rw [Nat.shiftRight_eq_div_pow]
    exact Nat.div_lt_of_lt_mul (by rw [← Nat.pow_add, hk]; exact arg.isLt)
  rw [← BitVec.toNat_inj, BitVec.extractLsb'_toNat, Nat.mod_eq_of_lt hlt, Nat.shiftRight_eq_div_pow]
  exact Nat.div_eq_zero_iff_lt (Nat.two_pow_pos k)

/-- A mask of every bit from `k` up meets no bit of a number exactly when the number fits the low `k` bits. -/
theorem and_highMask_eq_zero_iff {w : Nat} (k : Nat) (x : BitVec w) :
    x &&& BitVec.allOnes w <<< k = 0 ↔ x.toNat < 2 ^ k := by
  have hbit : ∀ i, (x &&& BitVec.allOnes w <<< k).getLsbD i = (x.getLsbD i && decide (k ≤ i)) := fun i => by
    by_cases hi : i < w
    · simp [hi, ← decide_not]
    · simp [BitVec.getLsbD_of_ge x i (Nat.le_of_not_lt hi)]
  constructor
  · intro h
    refine Nat.lt_pow_two_of_testBit _ fun i hi => ?_
    have hzero := hbit i
    rw [h, decide_eq_true hi, Bool.and_true, BitVec.ofNat_eq_ofNat, BitVec.getLsbD_zero] at hzero
    exact hzero.symm
  · intro h
    refine BitVec.eq_of_getLsbD_eq fun i _ => ?_
    rw [hbit]
    by_cases hi : k ≤ i
    · have hzero : x.getLsbD i = false :=
        Nat.testBit_lt_two_pow (h.trans_le (Nat.pow_le_pow_right (by decide) hi))
      simp [hzero]
    · simp [hi]

/-! ## Each format reads what `encode` writes -/

theorem formatN_zero (op : BitVec 8) (i : Instr) : formatN op 0 i = .ok i := if_pos rfl

theorem formatB_bit (op : BitVec 8) (b : Bool) (c : Bool → Instr) :
    formatB op ((BitVec.ofBool b).setWidth 32) c = .ok (c b) := by
  cases b <;> rfl

theorem formatY_byte (op : BitVec 8) (v : Byte) (c : Byte → Instr) :
    formatY op (v.setWidth 32) c = .ok (c v) := by
  have hn : (v.setWidth 32).toNat = v.toNat := BitVec.toNat_setWidth_of_le (by decide)
  have hres : (v.setWidth 32).extractLsb' 8 24 = 0 :=
    (extractLsb'_high_eq_zero_iff (by decide) _).2 (hn.trans_lt v.isLt)
  rw [formatY, if_pos hres, BitVec.extractLsb'_setWidth_of_le (by decide), BitVec.extractLsb'_eq_self]

theorem formatT_number {t : Nat} (h : t < 2 ^ 32) (c : Nat → Instr) : formatT (BitVec.ofNat 32 t) c = .ok (c t) := by
  rw [formatT, BitVec.toNat_ofNat, Nat.mod_eq_of_lt h]

theorem formatP_fields {dur : Nat} (h : dur < 2 ^ 31) (final : Bool) (c : Nat → Bool → Instr) :
    formatP (BitVec.ofBool final ++ BitVec.ofNat 31 dur) c = .ok (c dur final) := by
  have hdur : (BitVec.ofBool final ++ BitVec.ofNat 31 dur).extractLsb' 0 31 = BitVec.ofNat 31 dur :=
    BitVec.extractLsb'_append_eq_right
  have hfinal : (BitVec.ofBool final ++ BitVec.ofNat 31 dur).getLsbD 31 = final := by
    rw [BitVec.getLsbD_append]; simp
  rw [formatP, hdur, hfinal, BitVec.toNat_ofNat, Nat.mod_eq_of_lt h]

theorem formatL_number {n : Nat} (h : n < 2 ^ 16) (op : BitVec 8) (c : Nat → Instr) :
    formatL op (BitVec.ofNat 32 n) c = .ok (c n) := by
  have hn : (BitVec.ofNat 32 n).toNat = n := Nat.mod_eq_of_lt (h.trans (by decide))
  have hres : (BitVec.ofNat 32 n).extractLsb' 16 16 = 0 :=
    (extractLsb'_high_eq_zero_iff (by decide) _).2 (by rwa [hn])
  rw [formatL, if_pos hres, BitVec.extractLsb'_toNat, hn, Nat.shiftRight_zero, Nat.mod_eq_of_lt h]

/-! ## Wire patterns and bytes -/

theorem byteBits_bitsByte (d7 d6 d5 d4 d3 d2 d1 d0 : Bool) :
    byteBits (bitsByte [d7, d6, d5, d4, d3, d2, d1, d0]) = [d7, d6, d5, d4, d3, d2, d1, d0] := by
  revert d7 d6 d5 d4 d3 d2 d1 d0; decide

/-- The sub-frame pattern reads as its byte (R82). -/
theorem decodeWire_subframe (d : Byte) : decodeWire (true :: byteBits d) = .ok (.subframe d) :=
  congrArg (fun v => Except.ok (Instr.subframe v)) (bitsByte_byteBits d)

theorem decodeWire_eight (d7 d6 d5 d4 d3 d2 d1 d0 : Bool) :
    decodeWire [d7, d6, d5, d4, d3, d2, d1, d0] = .ok (.rawbyte (bitsByte [d7, d6, d5, d4, d3, d2, d1, d0])) := by
  cases d7 <;> rfl

/-- Eight bits read as the raw byte they spell (R85). -/
theorem decodeWire_rawbyte (d : Byte) : decodeWire (byteBits d) = .ok (.rawbyte d) :=
  (decodeWire_eight ..).trans (congrArg (fun v => Except.ok (Instr.rawbyte v)) (bitsByte_byteBits d))

/-- Bits that are a wire pattern are those of the instruction they decode to (R82, R83, R85). -/
theorem encode_of_decodeWire {bits : List Bool} {i : Instr} (h : decodeWire bits = .ok i) :
    i.wf = true ∧ encode i = .wire bits := by
  unfold decodeWire at h
  split at h <;> cases h
  · exact ⟨rfl, rfl⟩
  · exact ⟨rfl, by rw [encode, byteBits_bitsByte]⟩
  · exact ⟨rfl, by rw [encode, byteBits_bitsByte]⟩

/-- Settles O1: the opcode selects the row of R90, and the row's format reads the operand back. -/
theorem decodeInvertsEncode : Obligations.DecodeInvertsEncode := by
  intro i hwf
  cases i <;> simp only [encode, decode, decodeCommand, opField_commandWord, argField_commandWord]
  case sendbit b | setinit b => exact formatB_bit _ b _
  case sendbyte v | sendsf v => exact formatY_byte _ v _
  case hasdata n =>
    have hn : n < 2 ^ 8 := of_decide_eq_true hwf
    have hword : (BitVec.ofNat 8 n).setWidth 32 = BitVec.ofNat 32 n :=
      BitVec.setWidth_ofNat_of_le_of_lt (by decide) hn
    rw [← hword, formatY_byte, BitVec.toNat_ofNat, Nat.mod_eq_of_lt hn]
  case pulse dur final => exact formatP_fields (of_decide_eq_true hwf) final _
  case setidle t => exact formatT_number (of_decide_eq_true hwf) _
  case begin_ n | fbread n => exact formatL_number (of_decide_eq_true hwf) _ _
  case subframe d => exact decodeWire_subframe d
  case syncbit => rfl
  case rawbyte d => exact decodeWire_rawbyte d
  all_goals exact formatN_zero _ _

/-! ## The row of an opcode -/

/-- `OpcodeRow op k read`: the row of R90 for `op` reads its operand by `read`, one of the formats of R87; the low `k`
bits of the operand are used, the others reserved; and `encode` writes the codes of this row. -/
inductive OpcodeRow (op : BitVec 8) : Nat → (Word → Except Reject Instr) → Prop
  | formatN (i : Instr) (henc : encode i = .command (commandWord op 0)) : OpcodeRow op 0 fun arg => formatN op arg i
  | formatB (c : Bool → Instr) (henc : ∀ b, encode (c b) = .command (commandWord op ((BitVec.ofBool b).setWidth 32))) :
      OpcodeRow op 1 fun arg => formatB op arg c
  | formatY (c : Byte → Instr) (henc : ∀ v, encode (c v) = .command (commandWord op (v.setWidth 32))) :
      OpcodeRow op 8 fun arg => formatY op arg c
  | formatT (c : Nat → Instr) (henc : ∀ t, encode (c t) = .command (commandWord op (BitVec.ofNat 32 t))) :
      OpcodeRow op 32 fun arg => formatT arg c
  | formatP (c : Nat → Bool → Instr)
      (henc : ∀ dur final, encode (c dur final) =
        .command (commandWord op (BitVec.ofBool final ++ BitVec.ofNat 31 dur))) :
      OpcodeRow op 32 fun arg => formatP arg c
  | formatL (c : Nat → Instr) (henc : ∀ n, encode (c n) = .command (commandWord op (BitVec.ofNat 32 n))) :
      OpcodeRow op 16 fun arg => formatL op arg c

/-- A command word has a row, which is also a row of `legalRows`; or its opcode is in none (R90, R91). -/
theorem decodeCommand_row (w : CmdWord) :
    (∃ k read, OpcodeRow (opField w) k read ∧ (opField w, BitVec.allOnes 32 <<< k) ∈ legalRows
      ∧ decodeCommand w = read (argField w))
    ∨ decodeCommand w = .error (.unknownOpcode (opField w)) ∧ ∀ r ∈ legalRows, opField w ≠ r.1 := by
  unfold decodeCommand
  generalize opField w = op
  generalize argField w = arg
  dsimp only
  split
  · exact .inl ⟨_, _, .formatN .nop rfl, by decide, rfl⟩
  · exact .inl ⟨_, _, .formatB .sendbit fun _ => rfl, by decide, rfl⟩
  · exact .inl ⟨_, _, .formatY .sendbyte fun _ => rfl, by decide, rfl⟩
  · exact .inl ⟨_, _, .formatY (fun v => .hasdata v.toNat) fun v => by rw [encode, BitVec.ofNat_toNat], by decide, rfl⟩
  · exact .inl ⟨_, _, .formatN .recvbit rfl, by decide, rfl⟩
  · exact .inl ⟨_, _, .formatN .recvbyte rfl, by decide, rfl⟩
  · exact .inl ⟨_, _, .formatP .pulse fun _ _ => rfl, by decide, rfl⟩
  · exact .inl ⟨_, _, .formatB .setinit fun _ => rfl, by decide, rfl⟩
  · exact .inl ⟨_, _, .formatT .setidle fun _ => rfl, by decide, rfl⟩
  · exact .inl ⟨_, _, .formatN .hsclr rfl, by decide, rfl⟩
  · exact .inl ⟨_, _, .formatL .begin_ fun _ => rfl, by decide, rfl⟩
  · exact .inl ⟨_, _, .formatY .sendsf fun _ => rfl, by decide, rfl⟩
  · exact .inl ⟨_, _, .formatN .fcomplete rfl, by decide, rfl⟩
  · exact .inl ⟨_, _, .formatN .getframe rfl, by decide, rfl⟩
  · exact .inl ⟨_, _, .formatN .resetframe rfl, by decide, rfl⟩
  · exact .inl ⟨_, _, .formatL .fbread fun _ => rfl, by decide, rfl⟩
  · exact .inl ⟨_, _, .formatN .ftodet rfl, by decide, rfl⟩
  · exact .inl ⟨_, _, .formatN .ftocnt rfl, by decide, rfl⟩
  · exact .inl ⟨_, _, .formatN .ftoreset rfl, by decide, rfl⟩
  · exact .inl ⟨_, _, .formatN .status rfl, by decide, rfl⟩
  · exact .inl ⟨_, _, .formatN .fstatus rfl, by decide, rfl⟩
  · exact .inr ⟨rfl, by simp_all [legalRows]⟩

/-- A format with reserved bits answers an instruction exactly when its check holds (R87). -/
theorem guard_isOk_iff {g : Prop} [Decidable g] {i : Instr} {e : Reject} :
    (∃ j, (if g then Except.ok i else .error e) = .ok j) ↔ g := by
  by_cases hg : g <;> simp [hg]

section OpcodeRow

variable {op : BitVec 8} {k : Nat} {read : Word → Except Reject Instr} {arg : Word}

/-- A row refuses the operands with a reserved bit set, and no others (R87, R91). -/
theorem OpcodeRow.isOk_iff (hrow : OpcodeRow op k read) : (∃ i, read arg = .ok i) ↔ arg.toNat < 2 ^ k := by
  cases hrow with
  | formatN i => rw [Nat.pow_zero, Nat.lt_one_iff, BitVec.toNat_eq_nat, and_iff_right (by decide)]; exact guard_isOk_iff
  | formatB c => exact guard_isOk_iff.trans (extractLsb'_high_eq_zero_iff (by decide) arg)
  | formatY c => exact guard_isOk_iff.trans (extractLsb'_high_eq_zero_iff (by decide) arg)
  | formatT c => exact iff_of_true ⟨_, rfl⟩ arg.isLt
  | formatP c => exact iff_of_true ⟨_, rfl⟩ arg.isLt
  | formatL c => exact guard_isOk_iff.trans (extractLsb'_high_eq_zero_iff (by decide) arg)

/-- What a row reads is what `encode` wrote (R87, R90). -/
theorem OpcodeRow.encode_eq (hrow : OpcodeRow op k read) {i : Instr} (h : read arg = .ok i) :
    encode i = .command (commandWord op arg) := by
  have hlow := setWidth_extractLsb'_zero_of_lt (hrow.isOk_iff.1 ⟨i, h⟩)
  cases hrow with
  | formatN c henc =>
    dsimp only [Sys2Proof.formatN] at h
    split at h <;> cases h
    next hz => rw [henc, hz]
  | formatB c henc =>
    dsimp only [Sys2Proof.formatB] at h
    split at h <;> cases h
    rw [henc, ofBool_getLsbD, hlow]
  | formatY c henc =>
    dsimp only [Sys2Proof.formatY] at h
    split at h <;> cases h
    rw [henc, hlow]
  | formatT c henc =>
    cases h
    rw [henc, BitVec.ofNat_toNat, BitVec.setWidth_eq]
  | formatP c henc =>
    cases h
    rw [henc, BitVec.ofNat_toNat, BitVec.setWidth_eq, ofBool_getLsbD, BitVec.extractLsb'_append_extractLsb']
  | formatL c henc =>
    dsimp only [Sys2Proof.formatL] at h
    split at h <;> cases h
    rw [henc, BitVec.ofNat_toNat, hlow]

end OpcodeRow

/-- Settles O2: a command word is its opcode's row read back (`OpcodeRow.encode_eq`), a wire pattern its bits. -/
theorem encodeInvertsDecode : Obligations.EncodeInvertsDecode := by
  intro c i h
  cases c with
  | wire bits => exact encode_of_decodeWire h
  | command w =>
    refine ⟨(decode_command_eq_ok h).2, ?_⟩
    change decodeCommand w = .ok i at h
    rcases decodeCommand_row w with ⟨k, read, hrow, -, hread⟩ | ⟨herr, -⟩
    · rw [hrow.encode_eq (hread.symm.trans h), commandWord_fields]
    · cases herr.symm.trans h

/-! ## Legal words -/

/-- Each opcode has one row (R90). -/
theorem legalRows_nodup : (legalRows.map Prod.fst).Nodup := by decide

/-- A word is an instruction exactly when its row has no reserved bit set (R87, R90, R91). -/
theorem decode_isOk_iff_legalWord (w : CmdWord) : (∃ i, decode (.command w) = .ok i) ↔ legalWord w := by
  change (∃ i, decodeCommand w = .ok i) ↔ _
  rcases decodeCommand_row w with ⟨k, read, hrow, hmem, hread⟩ | ⟨herr, hnone⟩
  · rw [hread, hrow.isOk_iff, ← and_highMask_eq_zero_iff]
    constructor
    · exact fun hres => ⟨_, hmem, rfl, hres⟩
    · rintro ⟨r, hr, hop, hres⟩
      rw [← List.inj_on_of_nodup_map legalRows_nodup hmem hr hop] at hres
      exact hres
  · rw [herr]
    exact iff_of_false nofun fun ⟨r, hr, hop, _⟩ => hnone r hr hop

/-- A word that is no instruction is rejected, by one of the reasons of R91. -/
theorem decode_of_not_legalWord {w : CmdWord} (h : ¬ legalWord w) : ∃ e, decode (.command w) = .error e := by
  cases hd : decode (.command w) with
  | ok i => exact absurd ((decode_isOk_iff_legalWord w).1 ⟨i, hd⟩) h
  | error e => exact ⟨e, rfl⟩

/-- An illegal word only sets the response (R91). -/
theorem commandPhase_of_not_legalWord (i : TickInput) (s : State) (hv : i.cmdValid = true)
    (h : ¬ legalWord i.cmd) : commandPhase i s = .next (respond .illegal 0 s) := by
  obtain ⟨e, he⟩ := decode_of_not_legalWord h
  exact commandPhase_illegal i s e hv he

/-- Settles O3: `decode_isOk_iff_legalWord`, and a word that does not decode only sets the response. -/
theorem illegalWordsAnswerIllegal : Obligations.IllegalWordsAnswerIllegal :=
  ⟨decode_isOk_iff_legalWord, fun i s hv h => ⟨_, commandPhase_of_not_legalWord i s hv h, rfl, fun _ => rfl⟩⟩

/-- Settles O4: each word is evaluated. -/
theorem sampleCodesDecode : Obligations.SampleCodesDecode := by
  unfold Obligations.SampleCodesDecode
  decide

end Sys2Proof
end

section
/-! The response of a tick and the commands that code the wire: a response passes through the phases after the command
untouched and unread (30_encoding.md R88, R91, R103), and what the send commands queue (R94). -/

namespace Sys2Proof.Machine

/-! ## The phases after the command neither read nor write the response -/

section Respond

variable (p : Params) (c : RespCode) (d : Word) (s : State)

theorem startPulse_respond (n : Time) (f : Bool) :
    startPulse n f (respond c d s) = respond c d (startPulse n f s) := by
  unfold startPulse; split <;> rfl

theorem sendCell_respond : sendCell p (respond c d s) = respond c d (sendCell p s) := by
  unfold sendCell
  rw [respond_ob]
  split
  · next b ob _ => exact startPulse_respond c d { s with ob := ob } _ _
  · rfl

theorem idleState_respond : idleState p (respond c d s) = respond c d (idleState p s) := by
  unfold idleState
  rw [respond_edgeFlag, show mayInitiate (respond c d s) = mayInitiate s from rfl]
  split
  · rfl
  · split
    · unfold initiateSession; rw [sendCell_respond]; rfl
    · rfl

theorem answerSample_respond : answerSample p (respond c d s) = respond c d (answerSample p s) := by
  unfold answerSample
  rw [respond_ob, respond_selfInit]
  split
  · split
    · rfl
    · rw [startPulse_respond]; rfl
  · rw [sendCell_respond]; rfl

theorem awaitSampleState_respond : awaitSampleState p (respond c d s) = respond c d (awaitSampleState p s) := by
  unfold awaitSampleState
  rw [show elapsedAtLeast p.readDelay (respond c d s) = elapsedAtLeast p.readDelay s from rfl]
  split
  · exact answerSample_respond p c d (sampleBit s)
  · rfl

theorem awaitAckState_respond : awaitAckState p (respond c d s) = respond c d (awaitAckState p s) := by
  unfold awaitAckState
  rw [respond_edgeFlag, show elapsedAtLeast p.hsTimeout (respond c d s) = elapsedAtLeast p.hsTimeout s from rfl]
  split
  · rfl
  · split <;> rfl

theorem awaitHoldState_respond : awaitHoldState p (respond c d s) = respond c d (awaitHoldState p s) := by
  unfold awaitHoldState
  rw [show elapsedAtLeast p.writeDelay (respond c d s) = elapsedAtLeast p.writeDelay s from rfl]
  split <;> rfl

theorem channelPhase_respond : channelPhase p (respond c d s) = respond c d (channelPhase p s) := by
  unfold channelPhase
  rw [show channelRuns (respond c d s) = channelRuns s from rfl, respond_chState]
  split
  · split
    · exact idleState_respond p c d s
    · exact awaitSampleState_respond p c d s
    · exact awaitAckState_respond p c d s
    · exact awaitHoldState_respond p c d s
  · rfl

theorem storeByte_respond (v : Byte) :
    storeByte v (respond c d s) = andThen (storeByte v s) fun t => .next (respond c d t) := by
  unfold storeByte
  rw [respond_fbIdx]
  split <;> rfl

theorem accumulateBit_respond (b : Bool) :
    accumulateBit b (respond c d s) = andThen (accumulateBit b s) fun t => .next (respond c d t) := by
  unfold accumulateBit
  rw [respond_bitcnt, respond_acc, storeByte_respond]
  split <;> rfl

theorem startBit_respond (b : Bool) : startBit b (respond c d s) = respond c d (startBit b s) := by
  unfold startBit; split <;> rfl

theorem assembleBit_respond (b : Bool) :
    assembleBit b (respond c d s) = andThen (assembleBit b s) fun t => .next (respond c d t) := by
  unfold assembleBit
  rw [respond_fbIdx, respond_fbLen, respond_inSub, accumulateBit_respond, startBit_respond]
  split
  · split <;> rfl
  · rfl

theorem closeFrame_respond : closeFrame (respond c d s) = respond c d (closeFrame s) := by
  unfold closeFrame
  rw [show frameInProgress (respond c d s) = frameInProgress s from rfl]
  split <;> rfl

theorem codecPhase_respond :
    codecPhase (respond c d s) = andThen (codecPhase s) fun t => .next (respond c d t) := by
  unfold codecPhase waitFrameDataState
  rw [respond_fcEn, respond_fcState, respond_frameEnd, respond_ib, closeFrame_respond]
  split
  · split
    · split <;> rfl
    · split
      · next b ib _ => exact assembleBit_respond c d { s with ib := ib } b
      · split <;> rfl
    · split <;> rfl
  · rfl

/-- The phases after the command carry the response along (R88, R100). -/
theorem afterCommand_respond :
    afterCommand p (respond c d s) = andThen (afterCommand p s) fun t => .next (respond c d t) := by
  unfold afterCommand
  rw [channelPhase_respond, codecPhase_respond]
  cases codecPhase (channelPhase p s) <;> rfl

end Respond

/-- The phases after the command leave the response of the command (R88, R103). -/
theorem afterCommand_keepsResponse {p : Params} {u v : State} (h : codecPhase (channelPhase p u) = .next v) :
    v.respCode = u.respCode ∧ v.respData = u.respData := by
  obtain ⟨hv, -⟩ := codecPhase_writes h
  rw [hv, channelPhase_frame]
  exact ⟨rfl, rfl⟩

/-! ## The response of a tick -/

/-- A tick without reset is its phases in order (R100). -/
theorem tick_eq (p : Params) (i : TickInput) (s : State) (hrst : i.rst = false) :
    tick p i s = andThen (commandPhase i (beforeCommand i.rx s)) (afterCommand p) :=
  if_neg (Bool.eq_false_iff.1 hrst)

/-- A tick whose command phase only answers: the other phases run as they do without it (R100, R103). -/
theorem tick_of_answer {p : Params} {i : TickInput} {c : RespCode} {d : Word} {s : State} (hrst : i.rst = false)
    (hcmd : commandPhase i (beforeCommand i.rx s) = .next (respond c d (beforeCommand i.rx s))) :
    tick p i s = andThen (afterCommand p (beforeCommand i.rx s)) fun t => .next (respond c d t) := by
  rw [tick_eq p i s hrst, hcmd, andThen_next, afterCommand_respond]

/-- The command phase answers data 0 with every code but OK (R88, R91). -/
theorem commandPhase_failed {i : TickInput} {s t : State} (h : commandPhase i s = .next t) (hf : t.respCode ≠ .ok) :
    t.respData = 0 := by
  cases hv : i.cmdValid with
  | false => rw [commandPhase_none i s hv] at h; cases h; rfl
  | true =>
    cases hd : decode (.command i.cmd) with
    | error e => rw [commandPhase_illegal i s e hv hd] at h; cases h; rfl
    | ok k =>
      rw [commandPhase_ok i s k hv hd] at h
      obtain ⟨hcmd, -⟩ := decode_command_eq_ok hd
      rcases exec_failed hcmd h hf with ⟨_, rfl⟩ | ⟨-, _, rfl⟩ <;> rfl

/-- Settles O30: the command phase answers so, and no later phase writes the response. -/
theorem failureResponsesCarryNoData : Obligations.FailureResponsesCarryNoData := by
  intro p i s t h
  cases hrst : i.rst with
  | true =>
    rw [tick, if_pos hrst] at h
    cases h
    exact ⟨fun _ => rfl, fun _ => ⟨rfl, rfl⟩⟩
  | false =>
    obtain ⟨u, v, hcmd, hcodec, rfl⟩ := tick_eq_next hrst h
    obtain ⟨hcode, hdata⟩ := afterCommand_keepsResponse hcodec
    rw [timePhase_respCode, timePhase_respData, hcode, hdata]
    refine ⟨commandPhase_failed hcmd, fun hv => ?_⟩
    rw [commandPhase_none _ _ hv] at hcmd
    cases hcmd
    exact ⟨rfl, rfl⟩

/-- Settles O58: both command phases only answer, and the phases that follow carry the response along
(`afterCommand_respond`). -/
theorem illegalTickEqualsEmptyTick : Obligations.IllegalTickEqualsEmptyTick := by
  intro p s t rx w hw h
  rw [tick_of_answer rfl (commandPhase_none (lineInput rx) _ rfl), andThen_eq_next] at h
  obtain ⟨v, hv, ht⟩ := h
  obtain rfl := Host.Outcome.next.inj ht
  have hillegal := commandPhase_of_not_legalWord
    { rst := false, rx := rx, cmdValid := true, cmd := w } (beforeCommand rx s) rfl hw
  rw [tick_of_answer rfl hillegal]
  exact congrArg (andThen · _) hv

/-! ## Presented table words -/

/-- Only the 40-bit rows of the table are command words (R90, log 11). -/
theorem tableCode_eq_some {nbits w : Nat} {c : Code} (h : tableCode nbits w = some c) :
    (nbits = 40 ∧ ∃ v, c = .command v) ∨ (nbits ≠ 40 ∧ ∃ bits, c = .wire bits) := by
  unfold tableCode at h
  split at h
  case h_1 => split at h <;> cases h; exact .inl ⟨rfl, _, rfl⟩
  case h_6 => cases h
  case h_4 =>
    split at h
    · cases h; exact .inr ⟨by decide, _, rfl⟩
    · split at h <;> cases h; exact .inr ⟨by decide, _, rfl⟩
  all_goals split at h <;> cases h; exact .inr ⟨by decide, _, rfl⟩

/-- A table word that decodes is a code of the table that does. -/
theorem decodeTableWord_eq_some {nbits w : Nat} {i : Instr} (h : decodeTableWord nbits w = some i) :
    ∃ c, tableCode nbits w = some c ∧ decode c = .ok i := by
  unfold decodeTableWord at h
  split at h
  · next c hc =>
    split at h <;> cases h
    next hd => exact ⟨c, hc, hd⟩
  · cases h

/-- Settles O6: the word is presented as its code, a command word in a tick of its own or the bits of a pattern. -/
theorem presentedTableWordRuns : Obligations.PresentedTableWordRuns := by
  intro s nbits w i h
  obtain ⟨c, hc, hd⟩ := decodeTableWord_eq_some h
  have hin : (s.withFetchWord nbits w).inputs = presentCode s.rxQ c :: s.inputs := by
    simp [State.withFetchWord, presentTableWord, hc]
  rcases tableCode_eq_some hc with ⟨h40, v, rfl⟩ | ⟨h40, bits, rfl⟩
  · let j : TickInput := { rst := false, rx := s.rxQ, cmdValid := true, cmd := v }
    have hstate : { s.withFetchWord nbits w with inputs := s.inputs } = s := rfl
    rw [step, stepWith_tick _ j _ _ hin, hstate, if_pos h40, tick_eq _ j s rfl, commandPhase_ok j _ i rfl hd]
  · rw [step, stepWith_wire _ _ _ _ hin, if_neg h40, wireStep, hd]
    rfl

/-! ## The send commands code the wire patterns -/

/-- At most 64 bits enqueued on an empty queue are all queued, and the answer is OK (R127). -/
theorem enqueue_empty {bits : List Bool} {s : State} (hlen : bits.length ≤ 64) (h : s.ob.contents = []) :
    (enqueue bits s).ob.contents = bits ∧ (enqueue bits s).respCode = .ok := by
  have hcnt : s.ob.cnt.toNat = 0 := by rw [← BitFifo.contents_length, h]; rfl
  obtain ⟨hbits, hcode, -⟩ := enqueue_eq bits s (by omega)
  rw [hcnt] at hbits hcode
  exact ⟨by rw [hbits, h, List.nil_append, List.take_of_length_le hlen], by rw [hcode, if_pos hlen]⟩

/-- Settles O18: each command enqueues the bits of its pattern, at most nine. -/
theorem sendCommandsQueueTheWirePatterns : Obligations.SendCommandsQueueTheWirePatterns := by
  intro s v hob
  have hsend : ∀ bits : List Bool, bits.length ≤ 64 →
      Code.wire bits = .wire (enqueue bits s).ob.contents ∧ (enqueue bits s).respCode = .ok := fun bits hlen => by
    obtain ⟨hbits, hok⟩ := enqueue_empty hlen hob
    exact ⟨by rw [hbits], hok⟩
  simp only [List.forall_mem_cons, List.not_mem_nil, false_imp_iff, implies_true, and_true]
  exact ⟨⟨_, rfl, hsend (subframeBits v) (by simp [subframeBits])⟩, ⟨_, rfl, hsend (byteBits v) (by simp)⟩,
    ⟨_, rfl, hsend [false] (by decide)⟩⟩

end Sys2Proof.Machine
end

section
/-! The wire patterns at the receive side (30_encoding.md R82 to R85): the codec assembles the bits as they arrive, or
they stay queued while no buffer is bound. -/

namespace Sys2Proof.Machine

/-! ## A bit that arrives -/

/-- A push into an empty queue leaves that bit alone in it (R121). -/
theorem BitFifo.push_empty {f : BitFifo} (b : Bool) (h : f.contents = []) : (f.push b).1.contents = [b] := by
  have hcnt : f.cnt.toNat = 0 := by rw [← BitFifo.contents_length, h]; rfl
  obtain ⟨-, hbits, -⟩ := BitFifo.push_room f b (by omega)
  rw [hbits, h, List.nil_append]

/-- No further bits change nothing. -/
theorem andThen_receiveBits_nil (o : Host.Outcome State Fault Refusal) : andThen o (receiveBits []) = o := by
  cases o <;> rfl

/-- In WaitFrameData with nothing queued, an inbound bit is taken by the assembler at once (R106, R183). -/
theorem receiveBit_assembles (b : Bool) {s : State} (hen : s.fcEn = true) (hst : s.fcState = .waitFrameData)
    (hib : s.ib.contents = []) :
    ∃ f : BitFifo, f.contents = [] ∧ receiveBit b s = assembleBit b { s with ib := f } := by
  have hone := BitFifo.push_empty b hib
  obtain ⟨-, hrest, -⟩ := BitFifo.pull_cons _ b [] hone
  refine ⟨_, hrest, ?_⟩
  rcases codecPhase_cases { s with ib := (s.ib.push b).1 } with ⟨hoff, -⟩ | ⟨-, ⟨hst', -, -⟩ | ⟨hst', -, -⟩
    | ⟨b', bs, -, hbits, he⟩ | ⟨-, hnil, -⟩ | ⟨-, hnil, -⟩ | ⟨hst', -, -⟩ | ⟨hst', -, -⟩⟩
  case inr.inr.inr.inl =>
    obtain ⟨rfl, -⟩ := List.cons.inj (hone.symm.trans hbits)
    exact he
  case inl => exact absurd (hen.symm.trans hoff) (by decide)
  case inr.inr.inr.inr.inl => exact absurd (hone.symm.trans hnil) (by simp)
  case inr.inr.inr.inr.inr.inl => exact absurd (hone.symm.trans hnil) (by simp)
  all_goals exact absurd (hst.symm.trans hst') (by decide)

/-- Settles O32: the assembler drops a 0 outside a sub-frame (R184). -/
theorem syncbitIsDiscarded : Obligations.SyncbitIsDiscarded := by
  intro s hen hst hib hidx hsub
  obtain ⟨f, hf, he⟩ := receiveBit_assembles false hen hst hib
  have hdrop : assembleBit false { s with ib := f } = .next { s with ib := f } := by
    rw [assembleBit, if_pos hidx, hsub]; rfl
  refine ⟨{ s with ib := f }, ?_, hf, rfl, fun _ => rfl⟩
  exact (andThen_receiveBits_nil _).trans (he.trans hdrop)

/-! ## A sub-frame that arrives -/

/-- The accumulator after several bits (R185). -/
def shiftBits (acc : Byte) (bits : List Bool) : Byte := bits.foldl shiftIn acc

theorem shiftBits_zero_byteBits (d : Byte) : shiftBits 0 (byteBits d) = d := bitsByte_byteBits d

/-- The remaining bits of a sub-frame are shifted in and the byte is stored, whatever their number (R185, R186). -/
theorem receiveBits_completeByte (bits : List Bool) {s : State} (hne : bits ≠ []) (hen : s.fcEn = true)
    (hst : s.fcState = .waitFrameData) (hib : s.ib.contents = []) (hidx : s.fbIdx.toNat < s.fbLen.toNat)
    (hsub : s.inSub = true) (hcount : s.bitcnt.toNat + bits.length = 8) :
    ∃ f : BitFifo, f.contents = [] ∧ receiveBits bits s = storeByte (shiftBits s.acc bits) { s with ib := f } := by
  induction bits generalizing s with
  | nil => exact absurd rfl hne
  | cons b rest ih =>
    obtain ⟨f, hf, he⟩ := receiveBit_assembles b hen hst hib
    have hdata : receiveBit b s = accumulateBit b { s with ib := f } := by
      rw [he, assembleBit, if_pos hidx, if_pos hsub]
    rw [receiveBits_cons, hdata, accumulateBit]
    rw [List.length_cons] at hcount
    by_cases hrest : rest = []
    · subst hrest
      have hlast : s.bitcnt + 1 = 8 := by simp at hcount; bv_omega
      refine ⟨f, hf, ?_⟩
      rw [if_pos hlast, andThen_receiveBits_nil]
      rfl
    · have hpos := List.length_pos_iff.2 hrest
      have hnext : s.bitcnt + 1 ≠ 8 := by bv_omega
      have hcnt : (s.bitcnt + 1).toNat = s.bitcnt.toNat + 1 := by bv_omega
      rw [if_neg hnext, andThen_next]
      obtain ⟨g, hg, hg'⟩ := ih (s := { s with ib := f, acc := shiftIn s.acc b, bitcnt := s.bitcnt + 1 }) hrest hen hst hf
        hidx hsub (by simp only [hcnt]; omega)
      exact ⟨g, hg, hg'⟩

/-- A sub-frame between sub-frames: the start bit clears the assembler, the byte is stored (R82, R184 to R186). -/
theorem receiveBits_subframe (d : Byte) {s : State} (hen : s.fcEn = true) (hst : s.fcState = .waitFrameData)
    (hib : s.ib.contents = []) (hidx : s.fbIdx.toNat < s.fbLen.toNat) (hsub : s.inSub = false) :
    ∃ f : BitFifo, f.contents = [] ∧ receiveBits (subframeBits d) s = storeByte d { s with ib := f } := by
  obtain ⟨f, hf, he⟩ := receiveBit_assembles true hen hst hib
  have hstart : receiveBit true s = .next { s with ib := f, inSub := true, bitcnt := 0, acc := 0 } := by
    rw [he, assembleBit, if_pos hidx, hsub]; rfl
  obtain ⟨g, hg, hbyte⟩ := receiveBits_completeByte (byteBits d)
    (s := { s with ib := f, inSub := true, bitcnt := 0, acc := 0 }) (by simp [byteBits]) hen hst hf hidx rfl rfl
  rw [shiftBits_zero_byteBits] at hbyte
  refine ⟨g, hg, ?_⟩
  rw [subframeBits, receiveBits_cons, hstart, andThen_next, hbyte]
  rfl

/-- Settles O33: the sub-frame is one store at the write index, and a store changes no other byte. -/
theorem subframeStoresItsByte : Obligations.SubframeStoresItsByte := by
  intro s d hen hst hib hidx hlen hsub
  obtain ⟨f, hf, he⟩ := receiveBits_subframe d hen hst hib hidx hsub
  rw [storeByte_inside d { s with ib := f } (hidx.trans_le hlen)] at he
  exact ⟨_, he, hf, Memory.byte_write_same _ _ _ _, fun a ha => Memory.byte_write_other _ _ _ _ _ ha, by rw [← hsub]⟩

/-! ## Bits that stay queued -/

/-- With no buffer bound inbound bits are only queued (R180). -/
theorem receiveBits_codecOff (bits : List Bool) {s : State} (hoff : s.fcEn = false) :
    receiveBits bits s = .next { s with ib := (s.ib.pushSeq bits).1 } := by
  induction bits generalizing s with
  | nil => rfl
  | cons b rest ih =>
    have hbit : receiveBit b s = .next { s with ib := (s.ib.push b).1 } := if_neg (Bool.eq_false_iff.1 hoff)
    rw [receiveBits_cons, hbit, andThen_next, ih (s := { s with ib := (s.ib.push b).1 }) hoff]
    rfl

/-- With no buffer bound and room in `ib`, the bits are all queued behind what was there (R138, R180). -/
theorem receiveBits_queued (bits : List Bool) {s : State} (hoff : s.fcEn = false)
    (hroom : s.ib.contents.length + bits.length ≤ 64) :
    ∃ f : BitFifo, f.contents = s.ib.contents ++ bits ∧ receiveBits bits s = .next { s with ib := f } := by
  rw [BitFifo.contents_length] at hroom
  obtain ⟨hbits, -⟩ := BitFifo.pushSeq_contents s.ib bits (by omega)
  rw [List.take_of_length_le (by omega)] at hbits
  exact ⟨_, hbits, receiveBits_codecOff bits hoff⟩

/-- RECVBYTE on exactly the bits of a byte answers it and empties the queue (R165). -/
theorem execRecvbyte_byteBits {s : State} {d : Byte} (h : s.ib.contents = byteBits d) :
    ∃ u, execRecvbyte s = .next u ∧ u.respCode = .ok ∧ u.respData = byteWord d ∧ u.ib.contents = [] := by
  have hsize : s.ib.size = 8 := by rw [BitFifo.size, ← BitFifo.contents_length, h, byteBits_length]
  obtain ⟨htaken, hleft⟩ := BitFifo.pullSeq_contents s.ib 8
  rw [h] at htaken hleft
  refine ⟨_, if_neg (by omega), rfl, ?_, hleft⟩
  rw [htaken, List.take_of_length_le (byteBits_length d).le, bitsByte_byteBits]
  rfl

theorem byteBits_eq_map (d : Byte) : byteBits d = (List.range 8).map fun k => d.getLsbD (7 - k) := rfl

/-- A byte in `resp_data` is that number (R88). -/
theorem byteWord_toNat (v : Byte) : (byteWord v).toNat = v.toNat := BitVec.toNat_setWidth_of_le (by decide)

/-- Settles O34: the byte's bits are queued in order (`receiveBits_queued`), and RECVBYTE reads them back. -/
theorem rawbyteComesBackByRecvbyte : Obligations.RawbyteComesBackByRecvbyte := by
  intro s d hoff hroom
  obtain ⟨f, hf, he⟩ := receiveBits_queued (byteBits d) hoff (by rw [byteBits_length]; omega)
  refine ⟨{ s with ib := f }, he, ?_, rfl, fun _ => rfl, fun hempty => ?_⟩
  · rw [← byteBits_eq_map]; exact hf
  · rw [hempty, List.nil_append] at hf
    obtain ⟨u, hu, hcode, hdata, hleft⟩ := execRecvbyte_byteBits (s := { s with ib := f }) hf
    exact ⟨u, hu, hcode, by rw [hdata, byteWord_toNat], hleft⟩

end Sys2Proof.Machine
end

section
/-! The tick and the step (40_tick_step.md): a step runs its input and never stops, a reset tick, the time, a channel
that waits, and the two peers of R108. -/

namespace Sys2Proof.Machine

/-! ## One step -/

/-- Settles O10: `stepWith_completes` finds the next state and that R49 holds in it. -/
theorem stepNeverStops : Obligations.StepNeverStops := by
  intro s hs
  obtain ⟨t, ht, -⟩ := stepWith_completes ((inv_iff _ s).1 hs)
  exact ⟨t, ht⟩

/-- A wire pattern runs the instruction it decodes to (R82, R83, R85; log 1). -/
theorem wireStep_ok {bits : List Bool} {c : Instr} (s : State) (h : decode (.wire bits) = .ok c) :
    wireStep bits s = exec c s := by
  rw [wireStep, h]

/-- Settles O5: one case for each kind of input that `stepWith` can take. -/
theorem stepRunsDecodedInstruction : Obligations.StepRunsDecodedInstruction := by
  refine ⟨fun s i rest c hin hrst hvalid hdecode => ?_, fun s bits rest c hin hdecode => ?_, stepWith_free _⟩
  · rw [step, stepWith_tick _ i rest s hin, tick_eq _ i _ hrst, commandPhase_ok i _ c hvalid hdecode]
  · rw [step, stepWith_wire _ bits rest s hin, wireStep_ok _ hdecode]

/-! ## A reset tick -/

/-- A tick with `rst` = 1 looks at nothing else of its input (R101). -/
theorem tick_reset (p : Params) {i : TickInput} (s : State) (hrst : i.rst = true) :
    tick p i s = .next (resetTick p s) := if_pos hrst

/-- Settles O11: `resetTick` is the reset values of R251 with the slots, the frame buffer and the inputs kept, so every
byte reads as before (`State.fbByte_congr`). -/
theorem resetTickTakesResetValues : Obligations.ResetTickTakesResetValues :=
  fun p _ s hrst => ⟨resetTick p s, tick_reset p s hrst, rfl, State.fbByte_congr s _ rfl rfl⟩

/-! ## Time and the sampled line -/

@[simp] theorem channelPhase_now (p : Params) (s : State) : (channelPhase p s).now = s.now := by
  rw [channelPhase_frame]
@[simp] theorem channelPhase_rxQ (p : Params) (s : State) : (channelPhase p s).rxQ = s.rxQ := by
  rw [channelPhase_frame]

/-- No command writes the time or the sampled line (R44, R48). -/
theorem commandPhase_now_rxQ {i : TickInput} {s t : State} (h : commandPhase i s = .next t) :
    t.now = s.now ∧ t.rxQ = s.rxQ := by
  obtain ⟨u, c, d, rfl, rfl | ⟨-, k, -, -, hw⟩⟩ := commandPhase_eq_next h
  · exact ⟨rfl, rfl⟩
  · rw [hw.frame]; exact ⟨rfl, rfl⟩

theorem codecPhase_now_rxQ {s t : State} (h : codecPhase s = .next t) : t.now = s.now ∧ t.rxQ = s.rxQ := by
  obtain ⟨hframe, -⟩ := codecPhase_writes h
  rw [hframe]
  exact ⟨rfl, rfl⟩

/-- In a tick without reset only phase 1 writes `rx_q` and only phase 6 writes `now` (R107, R131). -/
theorem tick_now_rxQ {p : Params} {i : TickInput} {s t : State} (hrst : i.rst = false) (h : tick p i s = .next t) :
    t.now = s.now + 1 ∧ t.rxQ = i.rx := by
  obtain ⟨u, v, hcmd, hcodec, rfl⟩ := tick_eq_next hrst h
  obtain ⟨hvnow, hvrx⟩ := codecPhase_now_rxQ hcodec
  obtain ⟨hunow, hurx⟩ := commandPhase_now_rxQ hcmd
  rw [timePhase_now, timePhase_rxQ, hvnow, hvrx, channelPhase_now, channelPhase_rxQ, hunow, hurx, beforeCommand_frame]
  exact ⟨rfl, rfl⟩

/-- Settles O53: `tick_now_rxQ`, with the sum as a number. -/
theorem everyTickAdvancesTime : Obligations.EveryTickAdvancesTime := by
  intro p i s t hrst h
  obtain ⟨hnow, hrx⟩ := tick_now_rxQ hrst h
  exact ⟨by rw [hnow]; exact Time.toNat_add s.now 1, hrx⟩

/-! ## A channel that waits -/

/-- The channel is held exactly while a pulse is timed (R104). -/
theorem channelRuns_eq_false_iff (s : State) : channelRuns s = false ↔ s.pulseBusy = true ∨ s.pulseCnt ≠ 0 := by
  simp [channelRuns, imp_iff_not_or]

theorem channelPhase_held (p : Params) {s : State} (h : channelRuns s = false) : channelPhase p s = s := by
  simp [channelPhase, h]

/-- A timed condition does not hold yet (R111, R134). -/
theorem elapsedAtLeast_eq_false_iff (k : Time) (s : State) : elapsedAtLeast k s = false ↔ elapsedNat s < k.toNat := by
  rw [elapsedAtLeast, elapsed_toNat, decide_eq_false_iff_not, Nat.not_le, elapsedNat]

/-- Before its delay has elapsed AwaitingSampleDelay waits, whether the channel runs or is held (R104, R143). -/
theorem channelPhase_awaitSample_early {p : Params} {s : State} (hst : s.chState = .awaitSample)
    (h : elapsedAtLeast p.readDelay s = false) : channelPhase p s = s := by
  cases hrun : channelRuns s with
  | false => exact channelPhase_held p hrun
  | true => simp [channelPhase, hrun, hst, awaitSampleState, h]

/-- Settles O46: the held channel and the early AwaitingSampleDelay. -/
theorem channelWaitsUnchanged : Obligations.ChannelWaitsUnchanged := by
  rintro p s (hpulse | ⟨hst, hearly⟩)
  · exact channelPhase_held p ((channelRuns_eq_false_iff s).2 hpulse)
  · exact channelPhase_awaitSample_early hst ((elapsedAtLeast_eq_false_iff _ s).2 hearly)

/-! ## Two peers -/

@[simp] theorem sideInput_rst (rst : Bool) (cmd : Option CmdWord) (rx : Bool) : (sideInput rst cmd rx).rst = rst := by
  cases cmd <;> rfl

@[simp] theorem sideInput_rx (rst : Bool) (cmd : Option CmdWord) (rx : Bool) : (sideInput rst cmd rx).rx = rx := by
  cases cmd <;> rfl

/-- The pair ticks exactly when each side does, on the line the other side drove before (R108). -/
theorem pairTick_eq_next_iff {pa pb : Params} {i : PairInput} {s t : Pair} :
    pairTick pa pb i s = .next t ↔
      tick pa (sideInput i.rstA i.cmdA s.b.tx) s.a = .next t.a
      ∧ tick pb (sideInput i.rstB i.cmdB s.a.tx) s.b = .next t.b := by
  obtain ⟨ta, tb⟩ := t
  unfold pairTick
  cases tick pa (sideInput i.rstA i.cmdA s.b.tx) s.a with
  | next a => cases tick pb (sideInput i.rstB i.cmdB s.a.tx) s.b <;> simp
  | fault f => simp
  | refused r => simp

/-- One side's next state is a function of its own state, its own host and the line: whatever the rest of the two
systems is, equal ones go to equal ones (R73, R238). -/
theorem side_tick_unique {p : Params} {rst rst' : Bool} {cmd cmd' : Option CmdWord} {rx rx' : Bool} {s s' t t' : State}
    (h : tick p (sideInput rst cmd rx) s = .next t) (h' : tick p (sideInput rst' cmd' rx') s' = .next t')
    (hs : s = s') (hrx : rx = rx') (hrst : rst = rst') (hcmd : cmd = cmd') : t = t' := by
  subst hs hrx hrst hcmd
  exact Host.Outcome.next.inj (h.symm.trans h')

/-- Without its own reset a side's `rx_q` is the line (R108, R131). -/
theorem side_tick_rxQ {p : Params} {rst : Bool} {cmd : Option CmdWord} {rx : Bool} {s t : State}
    (h : tick p (sideInput rst cmd rx) s = .next t) (hrst : rst = false) : t.rxQ = rx := by
  obtain ⟨-, hrx⟩ := tick_now_rxQ ((sideInput_rst rst cmd rx).trans hrst) h
  rw [hrx, sideInput_rx]

/-- Settles O59: the pair's tick taken apart into its sides (`pairTick_eq_next_iff`), then one argument for both. -/
theorem peersInteractOnlyThroughTheLines : Obligations.PeersInteractOnlyThroughTheLines := by
  intro pa pb i s t h
  obtain ⟨ha, hb⟩ := pairTick_eq_next_iff.1 h
  refine ⟨ha, hb, side_tick_rxQ ha, side_tick_rxQ hb, fun pb' j s' t' h' => ?_, fun pa' j s' t' h' => ?_⟩
  · obtain ⟨ha', -⟩ := pairTick_eq_next_iff.1 h'
    exact side_tick_unique ha ha'
  · obtain ⟨-, hb'⟩ := pairTick_eq_next_iff.1 h'
    exact side_tick_unique hb hb'

end Sys2Proof.Machine
end

section
/-! The bit queue against the list of R126: one operation of the queue is one operation of the list, so a run of
operations is a run of the list's; and what a whole queue of pushed bits gives back. -/

namespace Sys2Proof.Machine

/-! ## The list's operations -/

theorem listRun_push_room (b : Bool) (ops : List QueueOp) {l : List Bool} (h : l.length < 64) :
    listRun (.push b :: ops) l = (.pushed true :: (listRun ops (l ++ [b])).1, (listRun ops (l ++ [b])).2) := by
  simp only [listRun, if_pos h]

theorem listRun_push_full (b : Bool) (ops : List QueueOp) {l : List Bool} (h : ¬ l.length < 64) :
    listRun (.push b :: ops) l = (.pushed false :: (listRun ops l).1, (listRun ops l).2) := by
  simp only [listRun, if_neg h]

/-! ## One operation of the queue as one of the list -/

/-- A pull gives the head of the queued bits, if there is one, and leaves the tail (R122). -/
theorem BitFifo.pull_head_tail (f : BitFifo) : f.pull.1 = f.contents.head? ∧ f.pull.2.contents = f.contents.tail := by
  cases hc : f.contents with
  | nil => simp [BitFifo.pull_empty f hc, hc]
  | cons b bs =>
    obtain ⟨hbit, hrest, -⟩ := BitFifo.pull_cons f b bs hc
    exact ⟨hbit, hrest⟩

/-- The queue and its bits run alike: `contents` commutes with each operation, and the answers agree (R126). -/
theorem fifoRun_eq_listRun (ops : List QueueOp) (f : BitFifo) (h : f.cnt.toNat ≤ 64) :
    (fifoRun ops f).1 = (listRun ops f.contents).1 ∧ (fifoRun ops f).2.contents = (listRun ops f.contents).2 := by
  induction ops generalizing f with
  | nil => exact ⟨rfl, rfl⟩
  | cons op ops ih =>
    cases op with
    | push b =>
      obtain ⟨hanswers, hbits⟩ := ih (f.push b).1 (BitFifo.push_cnt_le f b h)
      by_cases hfull : f.cnt.toNat = 64
      · have hlen : ¬ f.contents.length < 64 := by simp [hfull]
        rw [BitFifo.push_full f b hfull] at hanswers hbits
        rw [listRun_push_full b ops hlen, fifoRun, BitFifo.push_full f b hfull]
        exact ⟨congrArg _ hanswers, hbits⟩
      · have hroom : f.cnt.toNat < 64 := by omega
        obtain ⟨hok, hpushed, -⟩ := BitFifo.push_room f b hroom
        rw [hpushed] at hanswers hbits
        rw [listRun_push_room b ops (by simpa using hroom), fifoRun, hok]
        exact ⟨congrArg _ hanswers, hbits⟩
    | pull =>
      obtain ⟨hanswers, hbits⟩ := ih f.pull.2 (BitFifo.pull_cnt_le f h)
      obtain ⟨hbit, hrest⟩ := BitFifo.pull_head_tail f
      rw [hrest] at hanswers hbits
      rw [fifoRun, listRun, hbit]
      exact ⟨congrArg _ hanswers, hbits⟩

/-- Settles O14: the simulation by `contents`, one operation at a time (`fifoRun_eq_listRun`). -/
theorem fifoRefinesBoundedList : Obligations.FifoRefinesBoundedList := fifoRun_eq_listRun

/-! ## Pushing into an empty queue -/

/-- An empty queue takes up to 64 bits, and they are then what is queued (R127). -/
theorem BitFifo.pushSeq_of_cnt_zero {f : BitFifo} {bits : List Bool} (hf : f.cnt = 0) (hlen : bits.length ≤ 64) :
    (f.pushSeq bits).2 = true ∧ (f.pushSeq bits).1.contents = bits := by
  have hcnt : f.cnt.toNat = 0 := by rw [hf]; rfl
  have hempty : f.contents = [] := by rw [← List.length_eq_zero_iff, BitFifo.contents_length, hcnt]
  obtain ⟨hbits, hok, -⟩ := BitFifo.pushSeq_contents f bits (by omega)
  rw [hempty, hcnt, List.nil_append, List.take_of_length_le hlen] at hbits
  exact ⟨hok.2 (by omega), hbits⟩

/-- Settles O15: the queue holds exactly the pushed bits (`pushSeq_of_cnt_zero`), so as many pulls take them all, and
64 of them leave no room. -/
theorem sixtyFourBitsRoundTrip : Obligations.SixtyFourBitsRoundTrip := by
  intro f bits hf hlen
  obtain ⟨hok, hbits⟩ := BitFifo.pushSeq_of_cnt_zero hf hlen
  obtain ⟨htaken, hleft⟩ := BitFifo.pullSeq_contents (f.pushSeq bits).1 bits.length
  rw [hbits] at htaken hleft
  refine ⟨hok, htaken.trans List.take_length, ?_, fun hfull b => BitFifo.push_full _ b ?_⟩
  · exact (BitFifo.isEmpty_eq_true_iff _).2 (hleft.trans List.drop_length)
  · rw [← BitFifo.contents_length, hbits, hfull]

end Sys2Proof.Machine
end

section
/-! The channel (42_bitchannel_fsm.md): what each state does when the channel runs, what a command and the codec leave
of the channel and the line, and the two courses that no command can disturb: a pulse being timed, and a wait for an
acknowledge that does not come. -/

namespace Sys2Proof.Machine

/-! ## The edge detector and the pulse engine -/

/-- Settles O36: of the four levels of `rx` and `rx_q` one is a rise, and it alone sets the flag. -/
theorem edgeDetectorSetsStickyFlag : Obligations.EdgeDetectorSetsStickyFlag := by
  intro rx s
  have hflag : (s.edgeFlag || (rx && !s.rxQ)) = if rx = true ∧ s.rxQ = false then true else s.edgeFlag := by
    cases rx <;> cases s.rxQ <;> simp
  rw [edgeCapture, hflag]

/-- Settles O38: no pulse, a pulse with ticks to go, and its last tick. -/
theorem pulseEngineCountsDown : Obligations.PulseEngineCountsDown := by
  refine fun s => ⟨pulseEngine_idle s, fun hmany => ?_, fun hlast => ?_⟩
  · have hpulse : s.pulseCnt ≠ 0 := fun h0 => by simp [h0] at hmany
    have hmore : s.pulseCnt ≠ 1 := fun h1 => by simp [h1] at hmany
    rw [pulseEngine_busy s hpulse, if_neg hmore]
  · have hpulse : s.pulseCnt ≠ 0 := by rw [hlast]; decide
    rw [pulseEngine_busy s hpulse, if_pos hlast, hlast]
    rfl

/-! ## The channel that runs, state by state -/

/-- Without a pulse the channel runs (R104). -/
theorem channelRuns_of_no_pulse {s : State} (hbusy : s.pulseBusy = false) (hcnt : s.pulseCnt = 0) :
    channelRuns s = true := by
  simp [channelRuns, hbusy, hcnt]

/-- A timed condition holds (R111, R134). -/
theorem elapsedAtLeast_eq_true_iff (k : Time) (s : State) : elapsedAtLeast k s = true ↔ k.toNat ≤ elapsedNat s := by
  rw [elapsedAtLeast, elapsed_toNat, decide_eq_true_eq, elapsedNat]

section Running

variable {p : Params} {s : State}

theorem channelPhase_idle (hrun : channelRuns s = true) (hst : s.chState = .idle) :
    channelPhase p s = idleState p s := by
  simp [channelPhase, hrun, hst]

theorem channelPhase_awaitSample (hrun : channelRuns s = true) (hst : s.chState = .awaitSample) :
    channelPhase p s = awaitSampleState p s := by
  simp [channelPhase, hrun, hst]

theorem channelPhase_awaitAck (hrun : channelRuns s = true) (hst : s.chState = .awaitAck) :
    channelPhase p s = awaitAckState p s := by
  simp [channelPhase, hrun, hst]

theorem channelPhase_awaitHold (hrun : channelRuns s = true) (hst : s.chState = .awaitHold) :
    channelPhase p s = awaitHoldState p s := by
  simp [channelPhase, hrun, hst]

/-! ## Idle -/

theorem mayInitiate_eq_true_iff :
    mayInitiate s = true ↔ s.canInit = true ∧ s.ob.contents ≠ [] ∧ s.frameEnd = true := by
  rw [ne_eq, ← BitFifo.isEmpty_eq_true_iff]
  simp only [mayInitiate, Bool.and_eq_true, Bool.not_eq_true', Bool.not_eq_true]
  tauto

theorem idleState_edge (hedge : s.edgeFlag = true) : idleState p s = acceptSession s := by
  simp [idleState, hedge]

theorem idleState_initiate (hedge : s.edgeFlag = false) (hinit : mayInitiate s = true) :
    idleState p s = initiateSession p s := by
  simp [idleState, hedge, hinit]

theorem idleState_wait (hedge : s.edgeFlag = false) (hinit : mayInitiate s = false) :
    idleState p s = { s with frameEnd := s.frameEnd || elapsedAtLeast s.idleTo s } := by
  simp [idleState, hedge, hinit]

/-- A legal `WRITE_PULSE` is at least one tick (R5). -/
theorem writePulse_ne_zero (hp : p.legal = true) : p.writePulse ≠ 0 := by
  intro h0
  simp [Params.legal, h0] at hp

/-- This side initiates with a cell of the oldest bit (R132, R136). -/
theorem initiateSession_cons {b : Bool} {bs : List Bool} (hp : p.legal = true) (hob : s.ob.contents = b :: bs) :
    initiateSession p s = { s with
      ob := s.ob.pull.2, tx := true, pulseCnt := p.writePulse, pulseFinal := b, selfInit := true, frameEnd := false
      tLast := s.now, chState := .awaitAck } := by
  rw [initiateSession, sendCell_cons p s b bs hob, startPulse_pos _ _ _ (writePulse_ne_zero hp)]

/-! ## AwaitingSampleDelay -/

/-- A sampled bit is appended, or lost when the queue is full (R121, R146). -/
theorem BitFifo.push_contents (f : BitFifo) (b : Bool) (h : f.cnt.toNat ≤ 64) :
    (f.push b).1.contents = if f.contents.length < 64 then f.contents ++ [b] else f.contents := by
  rw [BitFifo.contents_length]
  split
  · next hroom =>
    obtain ⟨-, hpushed, -⟩ := BitFifo.push_room f b hroom
    exact hpushed
  · next hfull => rw [BitFifo.push_full f b (by omega)]

/-- The initiator with nothing more to send ends its session (R139). -/
theorem answerSample_nil_self (hob : s.ob.contents = []) (hself : s.selfInit = true) :
    answerSample p s = { s with chState := .idle } := by
  simp [answerSample, (BitFifo.isEmpty_eq_true_iff s.ob).2 hob, hself]

/-- The responder with nothing to send acknowledges with a pulse that ends low (R132, R139). -/
theorem answerSample_nil_peer (hp : p.legal = true) (hob : s.ob.contents = []) (hself : s.selfInit = false) :
    answerSample p s =
      { s with tx := true, pulseCnt := p.writePulse, pulseFinal := false, chState := .idle } := by
  simp [answerSample, (BitFifo.isEmpty_eq_true_iff s.ob).2 hob, hself, startPulse_pos _ _ _ (writePulse_ne_zero hp)]

/-- A side with a bit to send answers with its cell (R132, R139). -/
theorem answerSample_cons {b : Bool} {bs : List Bool} (hp : p.legal = true) (hob : s.ob.contents = b :: bs) :
    answerSample p s = { s with
      ob := s.ob.pull.2, tx := true, pulseCnt := p.writePulse, pulseFinal := b, chState := .awaitAck } := by
  have hne : s.ob.isEmpty = false := by
    rw [Bool.eq_false_iff, ne_eq, BitFifo.isEmpty_eq_true_iff, hob]; exact List.cons_ne_nil b bs
  simp [answerSample, hne, sendCell_cons p s b bs hob, startPulse_pos _ _ _ (writePulse_ne_zero hp)]

theorem awaitSampleState_elapsed (h : p.readDelay.toNat ≤ elapsedNat s) :
    awaitSampleState p s = answerSample p (sampleBit s) :=
  if_pos ((elapsedAtLeast_eq_true_iff _ s).2 h)

/-! ## AwaitingPeerAck and AwaitingHoldTime -/

theorem awaitAckState_edge (hedge : s.edgeFlag = true) :
    awaitAckState p s = { s with edgeFlag := false, tLast := s.now, chState := .awaitHold } := if_pos hedge

/-- Without an edge only an enforced timeout that has elapsed ends the wait (R141). -/
theorem awaitAckState_no_edge (hedge : s.edgeFlag = false) :
    awaitAckState p s = if p.hsEnforce = true ∧ p.hsTimeout.toNat ≤ elapsedNat s then
      { s with tx := false, hsErr := true, tLast := s.now, chState := .idle } else s := by
  simp only [awaitAckState, hedge, Bool.false_eq_true, if_false, Bool.and_eq_true, elapsedAtLeast_eq_true_iff]

end Running

/-! ## The obligations about one channel phase -/

/-- Settles O40: the edge is looked at first. -/
theorem idleEdgeBeginsPeerSession : Obligations.IdleEdgeBeginsPeerSession := by
  intro p s hbusy hcnt hst hedge
  rw [channelPhase_idle (channelRuns_of_no_pulse hbusy hcnt) hst, idleState_edge hedge]
  rfl

/-- Settles O41: `initiateSession_cons`, with what the pull leaves in the queue. -/
theorem idleInitiatesWithACell : Obligations.IdleInitiatesWithACell := by
  intro p s b bs hp hbusy hcnt hst hedge hcan hend hob
  have hinit : mayInitiate s = true :=
    mayInitiate_eq_true_iff.2 ⟨hcan, by rw [hob]; exact List.cons_ne_nil b bs, hend⟩
  obtain ⟨-, hrest, -⟩ := BitFifo.pull_cons s.ob b bs hob
  refine ⟨_, rfl, ?_⟩
  rw [channelPhase_idle (channelRuns_of_no_pulse hbusy hcnt) hst, idleState_initiate hedge hinit,
    initiateSession_cons hp hob]
  exact ⟨hrest, rfl⟩

/-- Settles O42: the remaining case of Idle, with the timed condition as a number. -/
theorem idleTimeoutSetsFrameEnd : Obligations.IdleTimeoutSetsFrameEnd := by
  intro p s hbusy hcnt hst hedge hno
  have hinit : mayInitiate s = false := Bool.eq_false_iff.2 fun h => hno (mayInitiate_eq_true_iff.1 h)
  have hflag : (s.frameEnd || elapsedAtLeast s.idleTo s) =
      if s.idleTo.toNat ≤ elapsedNat s then true else s.frameEnd := by
    split
    · next hlong => rw [(elapsedAtLeast_eq_true_iff _ s).2 hlong, Bool.or_true]
    · next hshort => rw [(elapsedAtLeast_eq_false_iff _ s).2 (Nat.lt_of_not_le hshort), Bool.or_false]
  rw [channelPhase_idle (channelRuns_of_no_pulse hbusy hcnt) hst, idleState_wait hedge hinit, hflag]

/-- Settles O43: the sample goes on `ib` by `BitFifo.push_contents`, and each answer has its equation. -/
theorem sampleIsQueuedAndAnswered : Obligations.SampleIsQueuedAndAnswered := by
  intro p s hp hbusy hcnt hst hdelay hib
  refine ⟨_, rfl, ?_⟩
  rw [channelPhase_awaitSample (channelRuns_of_no_pulse hbusy hcnt) hst, awaitSampleState_elapsed hdelay]
  refine ⟨?_, ?_, fun hob hself => ?_, fun hob hself => ?_, fun b bs hob => ?_⟩
  · rw [answerSample_frame]; rfl
  · rw [answerSample_frame]; exact BitFifo.push_contents s.ib s.rxQ hib
  · rw [answerSample_nil_self (s := sampleBit s) hob hself]; rfl
  · rw [answerSample_nil_peer (s := sampleBit s) hp hob hself]; rfl
  · obtain ⟨-, hrest, -⟩ := BitFifo.pull_cons s.ob b bs hob
    rw [answerSample_cons (s := sampleBit s) hp hob]
    exact ⟨hrest, rfl⟩

/-- Settles O44: with the edge, and without it by `awaitAckState_no_edge`. -/
theorem awaitAckEndsByEdgeOrEnforcedTimeout : Obligations.AwaitAckEndsByEdgeOrEnforcedTimeout := by
  intro p s hbusy hcnt hst
  rw [channelPhase_awaitAck (channelRuns_of_no_pulse hbusy hcnt) hst]
  refine ⟨awaitAckState_edge, fun hedge henf hlong => ?_, fun hedge hno => ?_⟩
  · rw [awaitAckState_no_edge hedge, if_pos ⟨henf, hlong⟩]
  · rw [awaitAckState_no_edge hedge, if_neg hno]

/-- Settles O45: the two sides of the timed condition. -/
theorem holdEndsWithTheLineReleased : Obligations.HoldEndsWithTheLineReleased := by
  intro p s hbusy hcnt hst
  rw [channelPhase_awaitHold (channelRuns_of_no_pulse hbusy hcnt) hst, awaitHoldState]
  refine ⟨fun hlong => if_pos ((elapsedAtLeast_eq_true_iff _ s).2 hlong), fun hshort => ?_⟩
  rw [(elapsedAtLeast_eq_false_iff _ s).2 hshort]
  rfl

/-! ## What a tick leaves of the channel and the line -/

/-- The channel's protocol registers are in `t` what they are in `s` (R48). -/
structure SameChannel (s t : State) : Prop where
  chState : t.chState = s.chState
  selfInit : t.selfInit = s.selfInit
  frameEnd : t.frameEnd = s.frameEnd
  edgeFlag : t.edgeFlag = s.edgeFlag
  tLast : t.tLast = s.tLast
  pulseBusy : t.pulseBusy = s.pulseBusy

/-- The line and the pulse engine's registers are in `t` what they are in `s` (R48). -/
structure SameLine (s t : State) : Prop where
  tx : t.tx = s.tx
  pulseCnt : t.pulseCnt = s.pulseCnt
  pulseFinal : t.pulseFinal = s.pulseFinal

/-- No command writes the channel's protocol registers (R48, R69). -/
theorem commandPhase_sameChannel {i : TickInput} {s t : State} (h : commandPhase i s = .next t) : SameChannel s t := by
  obtain ⟨u, c, d, rfl, rfl | ⟨-, k, -, -, hw⟩⟩ := commandPhase_eq_next h
  · exact ⟨rfl, rfl, rfl, rfl, rfl, rfl⟩
  · rw [hw.frame]; exact ⟨rfl, rfl, rfl, rfl, rfl, rfl⟩

/-- While a pulse is timed no command touches the line: PULSE, the only one that could, is answered BUSY (R69, R169). -/
theorem commandPhase_sameLine {i : TickInput} {s t : State} (hbusy : s.pulseBusy = true)
    (h : commandPhase i s = .next t) : SameLine s t := by
  obtain ⟨u, c, d, rfl, rfl | ⟨hvalid, k, hk, -, hw⟩⟩ := commandPhase_eq_next h
  · exact ⟨rfl, rfl, rfl⟩
  · by_cases hpulse : ∃ dur final, k = .pulse dur final
    · obtain ⟨dur, final, rfl⟩ := hpulse
      have hrefused : exec (.pulse dur final) s = .next (respond .busy 0 s) := if_pos hbusy
      rw [commandPhase_ok i s _ hvalid hk, hrefused] at h
      rw [← Host.Outcome.next.inj h]
      exact ⟨rfl, rfl, rfl⟩
    · obtain ⟨htx, hcnt, hfinal⟩ := hw.line fun dur final hk => hpulse ⟨dur, final, hk⟩
      exact ⟨htx, hcnt, hfinal⟩

/-- The codec leaves the channel and the line alone (R48, R180). -/
theorem codecPhase_sameChannel_sameLine {s t : State} (h : codecPhase s = .next t) :
    SameChannel s t ∧ SameLine s t := by
  obtain ⟨hframe, -⟩ := codecPhase_writes h
  rw [hframe]
  exact ⟨⟨rfl, rfl, rfl, rfl, rfl, rfl⟩, ⟨rfl, rfl, rfl⟩⟩

/-- In a tick whose channel phase changes nothing the channel is as phases 1 and 2 left it, and the line as the command
left it. -/
theorem tick_of_channel_still {p : Params} {i : TickInput} {s t : State} (hrst : i.rst = false)
    (h : tick p i s = .next t)
    (hstill : ∀ u, commandPhase i (beforeCommand i.rx s) = .next u → channelPhase p u = u) :
    SameChannel (beforeCommand i.rx s) t
      ∧ ∃ u, commandPhase i (beforeCommand i.rx s) = .next u ∧ SameLine u t := by
  obtain ⟨u, v, hcmd, hcodec, rfl⟩ := tick_eq_next hrst h
  rw [hstill u hcmd] at hcodec
  obtain ⟨hchan, hline⟩ := codecPhase_sameChannel_sameLine hcodec
  have hbefore := commandPhase_sameChannel hcmd
  exact ⟨⟨hchan.chState.trans hbefore.chState, hchan.selfInit.trans hbefore.selfInit,
    hchan.frameEnd.trans hbefore.frameEnd, hchan.edgeFlag.trans hbefore.edgeFlag, hchan.tLast.trans hbefore.tLast,
    hchan.pulseBusy.trans hbefore.pulseBusy⟩, u, hcmd, ⟨hline.tx, hline.pulseCnt, hline.pulseFinal⟩⟩

theorem ticks_cons (p : Params) (i : TickInput) (is : List TickInput) (s : State) :
    ticks p (i :: is) s = andThen (tick p i s) (ticks p is) := rfl

/-! ## A pulse runs its course -/

/-- `PulseRan n s t`: from `s` to `t`, `n` ticks of the pulse that `s` was timing went by, and the channel stood still
(R104, R133). -/
structure PulseRan (n : Nat) (s t : State) : Prop where
  pulseCnt : t.pulseCnt.toNat = s.pulseCnt.toNat - n
  tx : t.tx = if n < s.pulseCnt.toNat then true else s.pulseFinal
  pulseFinal : t.pulseFinal = s.pulseFinal
  chState : t.chState = s.chState
  tLast : t.tLast = s.tLast
  frameEnd : t.frameEnd = s.frameEnd
  selfInit : t.selfInit = s.selfInit
  pulseBusy : t.pulseBusy = true

theorem PulseRan.trans {m n : Nat} {s t u : State} (h : PulseRan m s t) (h' : PulseRan n t u) :
    PulseRan (m + n) s u where
  pulseCnt := by rw [h'.pulseCnt, h.pulseCnt, Nat.sub_sub]
  tx := by
    have hiff : n < s.pulseCnt.toNat - m ↔ m + n < s.pulseCnt.toNat := by omega
    rw [h'.tx, h.pulseCnt, h.pulseFinal]
    simp only [hiff]
  pulseFinal := h'.pulseFinal.trans h.pulseFinal
  chState := h'.chState.trans h.chState
  tLast := h'.tLast.trans h.tLast
  frameEnd := h'.frameEnd.trans h.frameEnd
  selfInit := h'.selfInit.trans h.selfInit
  pulseBusy := h'.pulseBusy

/-- Phases 1 and 2 while a pulse is timed (R131, R133). -/
theorem beforeCommand_busy (rx : Bool) {s : State} (h : s.pulseCnt ≠ 0) :
    beforeCommand rx s = { edgeCapture rx s with
      pulseBusy := true
      pulseCnt := s.pulseCnt - 1
      tx := if s.pulseCnt = 1 then s.pulseFinal else s.tx } := pulseEngine_busy (edgeCapture rx s) h

theorem time_eq_one_iff (x : Time) : x = 1 ↔ x.toNat = 1 := BitVec.toNat_inj.symm

/-- A counter that has not run out is counted down without a wrap (R133). -/
theorem time_sub_one_toNat {x : Time} (h : 0 < x.toNat) : (x - 1).toNat = x.toNat - 1 := by
  have hlt := x.toNat_lt
  have hsub : (x - 1).toNat = (x.toNat + 2 ^ 32 - 1) % 2 ^ 32 := Time.toNat_sub x 1
  omega

/-- One tick of a pulse, whatever `rx` and the command: the busy flag refuses PULSE and holds the channel. -/
theorem tick_pulse {p : Params} {i : TickInput} {s t : State} (hrst : i.rst = false) (htx : s.tx = true)
    (hpos : 0 < s.pulseCnt.toNat) (h : tick p i s = .next t) : PulseRan 1 s t := by
  have hne : s.pulseCnt ≠ 0 := fun h0 => by simp [h0] at hpos
  have hbefore := beforeCommand_busy i.rx hne
  have hbusy : (beforeCommand i.rx s).pulseBusy = true := by rw [hbefore]
  obtain ⟨hchan, u, hcmd, hafter⟩ := tick_of_channel_still hrst h fun u hcmd =>
    channelPhase_held p ((channelRuns_eq_false_iff u).2 (.inl ((commandPhase_sameChannel hcmd).pulseBusy.trans hbusy)))
  have hline := commandPhase_sameLine hbusy hcmd
  have hlast : s.pulseCnt = 1 ↔ ¬ 1 < s.pulseCnt.toNat := by rw [time_eq_one_iff]; omega
  rw [hbefore] at hchan hline
  exact
    { pulseCnt := by
        have hcnt : t.pulseCnt = s.pulseCnt - 1 := hafter.pulseCnt.trans hline.pulseCnt
        rw [hcnt, time_sub_one_toNat hpos]
      tx := by
        have hlevel : t.tx = if s.pulseCnt = 1 then s.pulseFinal else s.tx := hafter.tx.trans hline.tx
        rw [hlevel, htx]; simp only [hlast, ite_not]
      pulseFinal := hafter.pulseFinal.trans hline.pulseFinal
      chState := hchan.chState
      tLast := hchan.tLast
      frameEnd := hchan.frameEnd
      selfInit := hchan.selfInit
      pulseBusy := hchan.pulseBusy }

/-- As many ticks as the counter allows: each but the last leaves the line high for the next. -/
theorem ticks_pulse {p : Params} (i : TickInput) (is : List TickInput) {s : State} (hinv : Inv p s) (htx : s.tx = true)
    (hlen : (i :: is).length ≤ s.pulseCnt.toNat) (hrst : ∀ j ∈ i :: is, j.rst = false) :
    ∃ t, ticks p (i :: is) s = .next t ∧ PulseRan (i :: is).length s t := by
  induction is generalizing i s with
  | nil =>
    obtain ⟨t, ht, -⟩ := tick_completes i hinv
    exact ⟨t, by rw [ticks_cons, ht]; rfl, tick_pulse (hrst i List.mem_cons_self) htx hlen ht⟩
  | cons j js ih =>
    simp only [List.length_cons] at hlen
    obtain ⟨u, hu, hinvu⟩ := tick_completes i hinv
    have hone := tick_pulse (hrst i List.mem_cons_self) htx (by omega) hu
    have hhigh : u.tx = true := by rw [hone.tx, if_pos (by omega)]
    have hleft : (j :: js).length ≤ u.pulseCnt.toNat := by rw [hone.pulseCnt, List.length_cons]; omega
    obtain ⟨t, ht, hrest⟩ := ih j hinvu hhigh hleft fun k hk => hrst k (List.mem_cons_of_mem i hk)
    refine ⟨t, by rw [ticks_cons, hu]; exact ht, ?_⟩
    rw [List.length_cons, Nat.add_comm]
    exact hone.trans hrest

/-- Settles O39: tick by tick (`ticks_pulse`). -/
theorem pulseRunsItsCourse : Obligations.PulseRunsItsCourse := by
  intro p s is hs htx hpos hlen hrst
  obtain ⟨i, js, rfl⟩ := List.exists_cons_of_length_pos hpos
  obtain ⟨t, ht, hran⟩ := ticks_pulse i js ((inv_iff p s).1 hs) htx hlen hrst
  exact ⟨t, ht, hran.pulseCnt, hran.tx, hran.pulseFinal, hran.chState, hran.tLast, hran.frameEnd, hran.selfInit,
    hran.pulseBusy⟩

/-! ## A wait for an acknowledge that does not come -/

/-- Without enforcement and without an edge AwaitingPeerAck waits, whether the channel runs or is held (R104, R141). -/
theorem channelPhase_awaitAck_still {p : Params} {s : State} (henf : p.hsEnforce = false) (hst : s.chState = .awaitAck)
    (hedge : s.edgeFlag = false) : channelPhase p s = s := by
  cases hrun : channelRuns s with
  | false => exact channelPhase_held p hrun
  | true => rw [channelPhase_awaitAck hrun hst, awaitAckState_no_edge hedge, if_neg (by simp [henf])]

/-- A line that is low raises no flag (R131). -/
theorem beforeCommand_low_edgeFlag (s : State) : (beforeCommand false s).edgeFlag = s.edgeFlag := by
  unfold beforeCommand pulseEngine
  split <;> simp

/-- One tick of the wait, whatever the command: only the line's edge or an enforced timeout could end it. -/
theorem tick_awaitAck {p : Params} {i : TickInput} {s t : State} (henf : p.hsEnforce = false) (hrst : i.rst = false)
    (hrx : i.rx = false) (hst : s.chState = .awaitAck) (hedge : s.edgeFlag = false) (h : tick p i s = .next t) :
    t.chState = .awaitAck ∧ t.edgeFlag = false ∧ t.tLast = s.tLast := by
  have hst' : (beforeCommand i.rx s).chState = .awaitAck := by rw [beforeCommand_frame]; exact hst
  have hedge' : (beforeCommand i.rx s).edgeFlag = false := by rw [hrx, beforeCommand_low_edgeFlag]; exact hedge
  have hlast' : (beforeCommand i.rx s).tLast = s.tLast := by rw [beforeCommand_frame]
  obtain ⟨hchan, -⟩ := tick_of_channel_still hrst h fun u hcmd =>
    have hu := commandPhase_sameChannel hcmd
    channelPhase_awaitAck_still henf (hu.chState.trans hst') (hu.edgeFlag.trans hedge')
  exact ⟨hchan.chState.trans hst', hchan.edgeFlag.trans hedge', hchan.tLast.trans hlast'⟩

/-- The wait goes on through every run on a line that stays low. -/
theorem ticks_awaitAck {p : Params} (henf : p.hsEnforce = false) (is : List TickInput) {s : State} (hinv : Inv p s)
    (hst : s.chState = .awaitAck) (hedge : s.edgeFlag = false) (his : ∀ i ∈ is, i.rst = false ∧ i.rx = false) :
    ∃ t, ticks p is s = .next t ∧ Inv p t ∧ t.chState = .awaitAck ∧ t.tLast = s.tLast := by
  induction is generalizing s with
  | nil => exact ⟨s, rfl, hinv, hst, rfl⟩
  | cons i is ih =>
    obtain ⟨hrst, hrx⟩ := his i List.mem_cons_self
    obtain ⟨u, hu, hinvu⟩ := tick_completes i hinv
    obtain ⟨hstu, hedgeu, hlastu⟩ := tick_awaitAck henf hrst hrx hst hedge hu
    obtain ⟨t, ht, hinvt, hstt, hlastt⟩ := ih hinvu hstu hedgeu fun j hj => his j (List.mem_cons_of_mem i hj)
    exact ⟨t, by rw [ticks_cons, hu]; exact ht, hinvt, hstt, hlastt.trans hlastu⟩

/-- Settles O47: the wait goes on (`ticks_awaitAck`), and outside Idle and without enforcement R49 (g), (h) keep
`frame_end` and `hs_err` clear. -/
theorem awaitAckStallsWithoutAnEdge : Obligations.AwaitAckStallsWithoutAnEdge := by
  intro p s is hs henf hst hedge his
  obtain ⟨t, ht, hinv, hstt, hlast⟩ := ticks_awaitAck henf is ((inv_iff p s).1 hs) hst hedge his
  refine ⟨t, ht, hstt, hinv.frameEnd_eq_false (by rw [hstt]; decide), hlast, Bool.eq_false_iff.2 fun herr => ?_⟩
  exact absurd (hinv.hsErr herr) (Bool.eq_false_iff.1 henf)

end Sys2Proof.Machine
end

section
/-! The BitChannel commands (43_bitchannel_cmds.md): the answer and the writes of each command, case by case, and the
two commands whose effect is told over a whole tick, NOP and SETIDLE. -/

namespace Sys2Proof.Machine

/-! ## Operands and answers as numbers -/

theorem bitWord_eq (b : Bool) : bitWord b = if b then 1 else 0 := by cases b <;> rfl

theorem bitWord_decide (q : Prop) [Decidable q] : bitWord (decide q) = if q then 1 else 0 := by
  simp only [bitWord_eq, decide_eq_true_eq]

/-! ## The send commands -/

/-- What `enqueue` answers and appends, by the number of queued bits (R127, R161). -/
theorem enqueue_answer (bits : List Bool) {s : State} (h : s.ob.cnt.toNat ≤ 64) :
    (enqueue bits s).ob.contents = s.ob.contents ++ bits.take (64 - s.ob.contents.length)
      ∧ (enqueue bits s).respCode = (if s.ob.contents.length + bits.length ≤ 64 then .ok else .full)
      ∧ enqueue bits s = { s with ob := (enqueue bits s).ob, respCode := (enqueue bits s).respCode, respData := 0 }
      ∧ sameBytes s (enqueue bits s) := by
  obtain ⟨hbits, hcode, hframe⟩ := enqueue_eq bits s h
  rw [BitFifo.contents_length]
  exact ⟨hbits, hcode.trans (if_congr (by omega) rfl rfl), hframe, fun _ => rfl⟩

/-- Settles O17: each of the three commands is `enqueue` of its bits. -/
theorem sendCommandsQueueTheirBits : Obligations.SendCommandsQueueTheirBits := by
  intro s b v hcnt
  simp only [List.forall_mem_cons, List.not_mem_nil, false_imp_iff, implies_true, and_true]
  exact ⟨⟨_, rfl, enqueue_answer [b] hcnt⟩, ⟨_, rfl, enqueue_answer (byteBits v) hcnt⟩,
    ⟨_, rfl, enqueue_answer (subframeBits v) hcnt⟩⟩

/-! ## The receive commands -/

theorem execRecvbit_nil {s : State} (h : s.ib.contents = []) : execRecvbit s = .next (respond .empty 0 s) := by
  rw [execRecvbit, BitFifo.pull_empty _ h]

theorem execRecvbit_cons {s : State} {b : Bool} {bs : List Bool} (h : s.ib.contents = b :: bs) :
    ∃ f : BitFifo, f.contents = bs ∧ execRecvbit s = .next (respond .ok (bitWord b) { s with ib := f }) := by
  obtain ⟨hbit, hrest, -⟩ := BitFifo.pull_cons s.ib b bs h
  have hpull : s.ib.pull = (some b, s.ib.pull.2) := by rw [← hbit]
  exact ⟨s.ib.pull.2, hrest, by rw [execRecvbit, hpull]⟩

/-- Settles O19: an empty queue, or an oldest bit. -/
theorem recvbitTakesOldestBit : Obligations.RecvbitTakesOldestBit := by
  refine fun s => ⟨fun hempty => ⟨_, execRecvbit_nil hempty, rfl, fun _ => rfl⟩, fun b bs hib => ?_⟩
  obtain ⟨f, hf, he⟩ := execRecvbit_cons hib
  exact ⟨_, he, hf, by rw [← bitWord_eq]; rfl, fun _ => rfl⟩

theorem execRecvbyte_short {s : State} (h : s.ib.contents.length < 8) :
    execRecvbyte s = .next (respond .empty 0 s) := by
  rw [BitFifo.contents_length] at h
  exact if_pos h

/-- With the bits of a byte at the front of the queue RECVBYTE answers it and leaves what came after (R64, R165). -/
theorem execRecvbyte_append {s : State} {v : Byte} {bs : List Bool} (h : s.ib.contents = byteBits v ++ bs) :
    ∃ f : BitFifo, f.contents = bs ∧ execRecvbyte s = .next (respond .ok (byteWord v) { s with ib := f }) := by
  have hsize : ¬ s.ib.size < 8 := by
    rw [BitFifo.size, ← BitFifo.contents_length, h, List.length_append, byteBits_length]; omega
  obtain ⟨htaken, hleft⟩ := BitFifo.pullSeq_contents s.ib 8
  rw [h, List.take_left' (byteBits_length v)] at htaken
  rw [h, List.drop_left' (byteBits_length v)] at hleft
  exact ⟨(s.ib.pullSeq 8).2, hleft, by rw [execRecvbyte, if_neg hsize, htaken, bitsByte_byteBits]⟩

/-- Settles O20: fewer than eight bits, or a byte at the front of the queue. -/
theorem recvbyteTakesEightBits : Obligations.RecvbyteTakesEightBits := by
  refine fun s => ⟨fun hfew => ⟨_, execRecvbyte_short hfew, rfl, fun _ => rfl⟩, fun v bs hib => ?_⟩
  rw [← byteBits_eq_map] at hib
  obtain ⟨f, hf, he⟩ := execRecvbyte_append hib
  exact ⟨_, he, hf, byteWord_toNat v, rfl, fun _ => rfl⟩

/-- Settles O21: the occupancy is the number of queued bits. -/
theorem hasdataComparesTheCount : Obligations.HasdataComparesTheCount :=
  fun s n => ⟨_, rfl, by rw [BitFifo.contents_length, ← bitWord_decide]; rfl, fun _ => rfl⟩

/-! ## The commands that write one register -/

/-- Settles O16: each command's one write, its operand or answer as a number. -/
theorem controlCommandsWriteTheirRegister : Obligations.ControlCommandsWriteTheirRegister := fun s =>
  ⟨⟨_, rfl, rfl, fun _ => rfl⟩,
    fun _ => ⟨_, rfl, rfl, fun _ => rfl⟩,
    fun k hk => ⟨_, rfl, tickOperand_toNat k hk, rfl, fun _ => rfl⟩,
    ⟨_, rfl, rfl, fun _ => rfl⟩,
    ⟨_, rfl, rfl, fun _ => rfl⟩,
    ⟨_, rfl, indexWord_toNat s.fbIdx, rfl, fun _ => rfl⟩,
    ⟨_, rfl, rfl, fun _ => rfl⟩⟩

/-! ## PULSE -/

theorem execPulse_busy (dur : Nat) (final : Bool) {s : State} (h : s.pulseBusy = true) :
    execPulse dur final s = .next (respond .busy 0 s) := if_pos h

theorem execPulse_free (dur : Nat) (final : Bool) {s : State} (h : s.pulseBusy = false) :
    execPulse dur final s = .next (respond .ok 0 (startPulse (durOperand dur) final s)) :=
  if_neg (Bool.eq_false_iff.1 h)

/-- A duration of at least one tick is one in the register (R87). -/
theorem durOperand_ne_zero {dur : Nat} (hpos : 0 < dur) (h : dur < 2 ^ 31) : durOperand dur ≠ 0 := by
  intro h0
  have hdur := durOperand_toNat dur h
  rw [h0] at hdur
  exact hpos.ne hdur

/-- Settles O22: BUSY, a line set at once (`startPulse_zero`), or a pulse (`startPulse_pos`). -/
theorem pulseCommandStartsAPulseOrIsBusy : Obligations.PulseCommandStartsAPulseOrIsBusy := by
  intro s dur final hdur
  refine ⟨fun hbusy => ⟨_, execPulse_busy dur final hbusy, rfl, fun _ => rfl⟩, ?_, fun hfree hpos => ?_⟩
  · rintro hfree rfl
    have he := execPulse_free 0 final hfree
    rw [show durOperand 0 = 0 from rfl, startPulse_zero] at he
    exact ⟨_, he, rfl, fun _ => rfl⟩
  · have he := execPulse_free dur final hfree
    rw [startPulse_pos _ _ _ (durOperand_ne_zero hpos hdur)] at he
    exact ⟨_, he, durOperand_toNat dur hdur, rfl, fun _ => rfl⟩

/-! ## A tick that presents a command -/

/-- The word 0 is NOP (R90). -/
theorem decode_zero : decode (.command 0) = .ok .nop := by decide

/-- Settles O31: a reset tick ignores the command port, and else both command phases only answer (OK, 0). -/
theorem nopTickEqualsEmptyTick : Obligations.NopTickEqualsEmptyTick := by
  intro p s rst rx w
  cases rst with
  | true => rw [tick_reset p s rfl, tick_reset p s rfl]
  | false =>
    rw [tick_eq p _ s rfl, tick_eq p _ s rfl, commandPhase_ok _ _ .nop rfl decode_zero, commandPhase_none _ _ rfl]
    rfl

/-- A command is encoded as a word (R86). -/
theorem encode_of_isCommand {c : Instr} (h : isCommand c = true) : ∃ w, encode c = .command w := by
  cases c with
  | subframe d => cases h
  | syncbit => cases h
  | rawbyte d => cases h
  | _ => exact ⟨_, rfl⟩

/-- A tick that presents a well-formed command runs it between phases 1, 2 and phases 4 to 6 (R100, R103). -/
theorem tick_commandInput (p : Params) (rx : Bool) {c : Instr} (s : State) (hcmd : isCommand c = true)
    (hwf : c.wf = true) :
    tick p (commandInput rx c) s = andThen (exec c (beforeCommand rx s)) (afterCommand p) := by
  obtain ⟨w, hw⟩ := encode_of_isCommand hcmd
  have hdecode : decode (.command w) = .ok c := hw ▸ decodeInvertsEncode c hwf
  have hinput : commandInput rx c = { rst := false, rx := rx, cmdValid := true, cmd := w } := by
    rw [commandInput, hw]
  rw [hinput, tick_eq p _ s rfl]
  exact congrArg (andThen · (afterCommand p)) (commandPhase_ok _ _ c rfl hdecode)

/-- Without a rise of `rx` and without a pulse, phases 1 and 2 only sample the line (R131, R133). -/
theorem beforeCommand_quiet {rx : Bool} {s : State} (hrise : rx = true → s.rxQ = true) (hcnt : s.pulseCnt = 0) :
    beforeCommand rx s = { s with rxQ := rx, pulseBusy := false } := by
  have hedge : (s.edgeFlag || (rx && !s.rxQ)) = s.edgeFlag := by
    cases rx with
    | false => simp
    | true => simp [hrise rfl]
  rw [beforeCommand, pulseEngine_idle (edgeCapture rx s) hcnt, edgeCapture, hedge]

/-- In Idle, with nothing to start, no pulse and no buffer bound, phases 4 to 6 time the idle timeout and advance `now`
(R107, R137, R180). -/
theorem afterCommand_idle (p : Params) {s : State} (hbusy : s.pulseBusy = false) (hcnt : s.pulseCnt = 0)
    (hst : s.chState = .idle) (hedge : s.edgeFlag = false)
    (hno : ¬ (s.canInit = true ∧ s.ob.contents ≠ [] ∧ s.frameEnd = true)) (hoff : s.fcEn = false) :
    afterCommand p s = .next { s with
      frameEnd := if s.idleTo.toNat ≤ elapsedNat s then true else s.frameEnd, now := s.now + 1 } := by
  have hcodec : codecPhase (channelPhase p s) = .next (channelPhase p s) :=
    if_neg (by rw [channelPhase_fcEn, hoff]; exact Bool.false_ne_true)
  rw [afterCommand, hcodec, andThen_next, idleTimeoutSetsFrameEnd p s hbusy hcnt hst hedge hno, timePhase]

/-- Settles O57: the channel phase of the same tick compares the time elapsed with the `idle_to` just written
(`afterCommand_idle`). -/
theorem setidleActsInTheSameTick : Obligations.SetidleActsInTheSameTick := by
  intro p s k rx hk hst hedge hrise hcnt hcan hoff
  have htick := tick_commandInput (c := .setidle k) p rx s rfl (decide_eq_true hk)
  rw [beforeCommand_quiet hrise hcnt, exec, execSetidle, andThen_next] at htick
  have hafter := htick.trans
    (afterCommand_idle p rfl hcnt hst hedge (fun hinit => Bool.eq_false_iff.1 hcan hinit.1) hoff)
  refine ⟨_, hafter, tickOperand_toNat k hk, ?_, rfl⟩
  exact if_congr (by rw [respond_idleTo, tickOperand_toNat k hk]; rfl) rfl rfl

end Sys2Proof.Machine
end

section
/-! The frame codec (44_framecodec_fsm.md): the codec phase rule by rule, and the reception of a whole frame, run
of bits by run of bits. -/

namespace Sys2Proof.Machine

/-! ## The codec phase, state by state -/

section CodecPhase

variable {s : State}

theorem codecPhase_off (hoff : s.fcEn = false) : codecPhase s = .next s := by
  simp [codecPhase, hoff]

/-- WaitFrameStart and FrameEnd drain a bit in each tick with the flag set (R181, R189). -/
theorem codecPhase_drains (hen : s.fcEn = true) (hst : s.fcState ≠ .waitFrameData) (hflag : s.frameEnd = true) :
    codecPhase s = .next (drainBit s) := by
  cases hc : s.fcState with
  | waitFrameData => exact absurd hc hst
  | waitFrameStart => simp [codecPhase, hen, hc, hflag]
  | frameEnd => simp [codecPhase, hen, hc, hflag]

theorem codecPhase_resynchronises (hen : s.fcEn = true) (hst : s.fcState = .waitFrameStart)
    (hflag : s.frameEnd = false) : codecPhase s = .next (resynchronise s) := by
  simp [codecPhase, hen, hst, hflag]

theorem codecPhase_restarts (hen : s.fcEn = true) (hst : s.fcState = .frameEnd) (hflag : s.frameEnd = false) :
    codecPhase s = .next { s with fcState := .waitFrameStart } := by
  simp [codecPhase, hen, hst, hflag]

/-- In WaitFrameData a queued bit goes to the assembler, whatever the flag (R183, R230). -/
theorem codecPhase_assembles {b : Bool} {bs : List Bool} (hen : s.fcEn = true) (hst : s.fcState = .waitFrameData)
    (hib : s.ib.contents = b :: bs) : codecPhase s = assembleBit b (drainBit s) := by
  have hpull : s.ib.pull = (some b, s.ib.pull.2) := by rw [← (BitFifo.pull_cons _ _ _ hib).1]
  have hstate : codecPhase s = waitFrameDataState s := by simp [codecPhase, hen, hst]
  rw [hstate, waitFrameDataState, hpull]
  rfl

/-- In WaitFrameData with nothing queued the flag decides (R187, R188). -/
theorem codecPhase_noBit (hen : s.fcEn = true) (hst : s.fcState = .waitFrameData) (hib : s.ib.contents = []) :
    codecPhase s = .next (if s.frameEnd then closeFrame s else s) := by
  simp [codecPhase, hen, hst, waitFrameDataState, BitFifo.pull_empty _ hib]

theorem drainBit_ib_contents (s : State) : (drainBit s).ib.contents = s.ib.contents.tail :=
  (BitFifo.pull_head_tail s.ib).2

theorem drainBit_ib_of_cons {b : Bool} {bs : List Bool} (hib : s.ib.contents = b :: bs) :
    (drainBit s).ib.contents = bs := by
  rw [drainBit_ib_contents, hib, List.tail_cons]

/-! ## The assembler -/

/-- Outside a sub-frame the assembler has no use for a 0 (R184), nor for any bit once the frame is complete (R183). -/
theorem assembleBit_dropped {b : Bool} (hsub : s.inSub = false) (hb : s.fbIdx.toNat < s.fbLen.toNat → b = false) :
    assembleBit b s = .next s := by
  by_cases hidx : s.fbIdx.toNat < s.fbLen.toNat
  · rw [assembleBit, if_pos hidx, hsub, hb hidx]; rfl
  · rw [assembleBit, if_neg hidx]

theorem assembleBit_startBit (b : Bool) (hidx : s.fbIdx.toNat < s.fbLen.toNat) (hsub : s.inSub = false) :
    assembleBit b s = .next (startBit b s) := by
  rw [assembleBit, if_pos hidx, hsub]; rfl

theorem assembleBit_inSub (b : Bool) (hidx : s.fbIdx.toNat < s.fbLen.toNat) (hsub : s.inSub = true) :
    assembleBit b s = accumulateBit b s := by
  rw [assembleBit, if_pos hidx, if_pos hsub]

/-- `(acc, b)[7:0]` as a number (R111, R185). -/
theorem shiftIn_toNat (acc : Byte) (b : Bool) :
    (shiftIn acc b).toNat = (2 * acc.toNat + if b then 1 else 0) % 256 := by
  have hlow : (BitVec.ofBool b).toNat = if b then 1 else 0 := by cases b <;> rfl
  have hlt : (BitVec.ofBool b).toNat < 2 ^ 1 := (BitVec.ofBool b).isLt
  rw [shiftIn, BitVec.toNat_append, ← Nat.shiftLeft_add_eq_or_of_lt hlt, Nat.shiftLeft_eq, BitVec.toNat_setWidth]
  omega

/-! ## The frame boundary -/

/-- A frame in progress is started and incomplete (R187). -/
theorem frameInProgress_iff :
    frameInProgress s = true ↔ (s.inSub = true ∨ 0 < s.fbIdx.toNat) ∧ s.fbIdx.toNat < s.fbLen.toNat := by
  simp only [frameInProgress, Bool.and_eq_true, Bool.or_eq_true, decide_eq_true_eq]

end CodecPhase

/-! ## The obligations about the codec phase -/

/-- Settles O48: the codec that is off, and the two states that wait for the flag to clear. -/
theorem codecDrainsThenResynchronises : Obligations.CodecDrainsThenResynchronises := fun s =>
  ⟨codecPhase_off,
    fun hen hst hflag => ⟨drainBit s, codecPhase_drains hen hst hflag, drainBit_ib_contents s, rfl⟩,
    codecPhase_resynchronises, codecPhase_restarts⟩

/-- Settles O49: the pulled bit is dropped by the assembler, or looked at by the start-bit detector. -/
theorem startBitDetectorAndCompleteFrame : Obligations.StartBitDetectorAndCompleteFrame := by
  intro s b bs hen hst hib
  have hphase := codecPhase_assembles hen hst hib
  have hrest := drainBit_ib_of_cons hib
  refine ⟨fun hcomplete => ?_, fun hidx hsub => ?_⟩
  · have hfull : ¬ (drainBit s).fbIdx.toNat < (drainBit s).fbLen.toNat := by
      simp only [drainBit, hcomplete, lt_irrefl, not_false_eq_true]
    exact ⟨drainBit s, hphase.trans (if_neg hfull), hrest, rfl⟩
  · have hstart := hphase.trans (assembleBit_startBit (s := drainBit s) b hidx hsub)
    cases b <;> exact ⟨_, hstart, hrest, rfl⟩

/-- Settles O50: the accumulator shifts (`shiftIn_toNat`), and the eighth bit's store is inside the frame buffer. -/
theorem dataBitsShiftInAndTheEighthStores : Obligations.DataBitsShiftInAndTheEighthStores := by
  intro s b bs hen hst hib hidx hlen hsub
  have hphase := (codecPhase_assembles hen hst hib).trans (assembleBit_inSub (s := drainBit s) b hidx hsub)
  have hrest := drainBit_ib_of_cons hib
  have hacc := shiftIn_toNat s.acc b
  by_cases heighth : s.bitcnt = 7
  · have hstore := storeByte_inside (shiftIn s.acc b) (drainBit s) (hidx.trans_le hlen)
    have hcount : (drainBit s).bitcnt + 1 = 8 := by rw [drainBit, heighth]; rfl
    refine ⟨_, (hphase.trans (if_pos hcount)).trans hstore, hrest, hacc, fun hne => absurd heighth hne,
      fun _ => ⟨rfl, ?_, fun a ha => ?_⟩⟩
    · exact Memory.byte_write_same _ _ _ _
    · exact Memory.byte_write_other _ _ _ _ _ ha
  · have hcount : (drainBit s).bitcnt + 1 ≠ 8 := by rw [drainBit]; bv_omega
    exact ⟨_, hphase.trans (if_neg hcount), hrest, hacc, fun _ => ⟨rfl, fun _ => rfl⟩,
      fun h7 => absurd h7 heighth⟩

/-- Settles O51: the flag clear; set in a frame in progress; set with no frame in progress. -/
theorem frameBoundaryCountsAStartedFrame : Obligations.FrameBoundaryCountsAStartedFrame := by
  intro s hen hst hib
  have hphase := codecPhase_noBit hen hst hib
  refine ⟨fun hflag => ?_, fun hflag hprogress => ?_, fun hflag hno => ?_⟩
  · rwa [if_neg (Bool.eq_false_iff.1 hflag)] at hphase
  · rw [if_pos hflag, closeFrame, if_pos (frameInProgress_iff.2 hprogress)] at hphase
    exact ⟨_, hphase, satInc_toNat s.ftoCnt, rfl, fun _ => rfl⟩
  · rwa [if_pos hflag, closeFrame, if_neg (mt frameInProgress_iff.1 hno)] at hphase

/-! ## Runs of bits between sub-frames -/

theorem receiveBits_append (bits more : List Bool) (s : State) :
    receiveBits (bits ++ more) s = andThen (receiveBits bits s) (receiveBits more) := by
  induction bits generalizing s with
  | nil => rfl
  | cons b bits ih =>
    rw [List.cons_append, receiveBits_cons, receiveBits_cons]
    cases receiveBit b s with
    | next t => exact ih t
    | fault _ => rfl
    | refused _ => rfl

/-- A codec that runs, in WaitFrameData, between two sub-frames, with nothing queued. -/
structure BetweenSubframes (s : State) : Prop where
  fcEn : s.fcEn = true
  fcState : s.fcState = .waitFrameData
  ib : s.ib.contents = []
  inSub : s.inSub = false

/-- From `s` to `t` the frame grew by the bytes `vs`: they stand in order from the write index of `s` on, the index of
`t` is behind them, and every other byte, the bound length and the timeout counter are as they were. -/
structure FrameGrew (vs : List Byte) (s t : State) : Prop where
  fbLen : t.fbLen = s.fbLen
  ftoCnt : t.ftoCnt = s.ftoCnt
  fbIdx : t.fbIdx.toNat = s.fbIdx.toNat + vs.length
  stored : ∀ (k : Nat) (h : k < vs.length), t.fbByte (s.fbIdx.toNat + k) = vs[k]
  others : ∀ a, a < s.fbIdx.toNat ∨ s.fbIdx.toNat + vs.length ≤ a → t.fbByte a = s.fbByte a

theorem FrameGrew.append {vs ws : List Byte} {s t u : State} (h : FrameGrew vs s t) (h' : FrameGrew ws t u) :
    FrameGrew (vs ++ ws) s u := by
  have hmid := h.fbIdx
  refine ⟨h'.fbLen.trans h.fbLen, h'.ftoCnt.trans h.ftoCnt, ?_, fun k hk => ?_, fun a ha => ?_⟩
  · rw [h'.fbIdx, hmid, List.length_append, Nat.add_assoc]
  · by_cases hfirst : k < vs.length
    · rw [h'.others _ (.inl (by omega)), h.stored k hfirst, List.getElem_append_left hfirst]
    · have hback : s.fbIdx.toNat + k = t.fbIdx.toNat + (k - vs.length) := by omega
      rw [List.length_append] at hk
      rw [hback, h'.stored _ (by omega), List.getElem_append_right (Nat.le_of_not_lt hfirst)]
  · rw [List.length_append] at ha
    rw [h'.others a (by omega), h.others a (by omega)]

/-- The frame does not grow when only `ib` changes. -/
theorem FrameGrew.withIb (f : BitFifo) (s : State) : FrameGrew [] s { s with ib := f } where
  fbLen := rfl
  ftoCnt := rfl
  fbIdx := rfl
  stored := nofun
  others _ _ := rfl

/-- The bits `bits` are received from `s` to `t`, both between sub-frames, and the frame grew by `vs`. -/
structure Assembles (bits : List Bool) (vs : List Byte) (s t : State) : Prop where
  received : receiveBits bits s = .next t
  between : BetweenSubframes t
  grew : FrameGrew vs s t

theorem Assembles.append {bits more : List Bool} {vs ws : List Byte} {s t u : State} (h : Assembles bits vs s t)
    (h' : Assembles more ws t u) : Assembles (bits ++ more) (vs ++ ws) s u where
  received := by rw [receiveBits_append, h.received, andThen_next, h'.received]
  between := h'.between
  grew := h.grew.append h'.grew

section Receive

variable {s : State}

theorem Assembles.nil (h : BetweenSubframes s) : Assembles [] [] s s := ⟨rfl, h, .withIb s.ib s⟩

/-- Zeros between sub-frames (R184), and any bits once the frame is complete (R183), leave the frame alone. -/
theorem assembles_dropped (bits : List Bool) (h : BetweenSubframes s)
    (hbits : s.fbIdx.toNat < s.fbLen.toNat → ∀ b ∈ bits, b = false) : ∃ t, Assembles bits [] s t := by
  induction bits generalizing s with
  | nil => exact ⟨s, .nil h⟩
  | cons b bits ih =>
    obtain ⟨f, hf, hbit⟩ := receiveBit_assembles b h.fcEn h.fcState h.ib
    have hdrop : receiveBit b s = .next { s with ib := f } :=
      hbit.trans (assembleBit_dropped h.inSub fun hidx => hbits hidx b List.mem_cons_self)
    have hone : Assembles [b] [] s { s with ib := f } :=
      ⟨by rw [receiveBits_cons, hdrop]; rfl, { h with ib := hf }, .withIb f s⟩
    obtain ⟨t, ht⟩ := ih hone.between fun hidx b' hb' => hbits hidx b' (List.mem_cons_of_mem b hb')
    exact ⟨t, hone.append ht⟩

/-- A sub-frame adds its byte to an incomplete frame (R82, R184 to R186). -/
theorem assembles_subframe (d : Byte) (h : BetweenSubframes s) (hidx : s.fbIdx.toNat < s.fbLen.toNat)
    (hlen : s.fbLen.toNat ≤ 256) : ∃ t, Assembles (subframeBits d) [d] s t := by
  obtain ⟨f, hf, he⟩ := receiveBits_subframe d h.fcEn h.fcState h.ib hidx h.inSub
  rw [storeByte_inside d { s with ib := f } (hidx.trans_le hlen)] at he
  refine ⟨_, he, { h with ib := hf, inSub := rfl }, rfl, rfl, ?_, fun k hk => ?_, fun a ha => ?_⟩
  · change (s.fbIdx + 1).toNat = s.fbIdx.toNat + 1
    bv_omega
  · obtain rfl : k = 0 := Nat.lt_one_iff.1 hk
    exact Memory.byte_write_same _ _ _ _
  · rw [List.length_singleton] at ha
    exact Memory.byte_write_other _ _ _ _ _ (by dsimp only; omega)

/-- Sub-frames that fit in the frame, each after its zeros, add their bytes in order (R84, R191). -/
theorem assembles_frameBits (items : List (Nat × Byte)) (h : BetweenSubframes s)
    (hfit : s.fbIdx.toNat + items.length ≤ s.fbLen.toNat) (hlen : s.fbLen.toNat ≤ 256) :
    ∃ t, Assembles (frameBits items) (items.map Prod.snd) s t := by
  induction items generalizing s with
  | nil => exact ⟨s, .nil h⟩
  | cons item items ih =>
    obtain ⟨zeros, d⟩ := item
    rw [List.length_cons] at hfit
    obtain ⟨t, ht⟩ := assembles_dropped (List.replicate zeros false) h fun _ b hb => List.eq_of_mem_replicate hb
    have htIdx : t.fbIdx.toNat = s.fbIdx.toNat := ht.grew.fbIdx
    rw [← ht.grew.fbLen] at hfit hlen
    obtain ⟨u, hu⟩ := assembles_subframe d ht.between (by omega) hlen
    have huIdx : u.fbIdx.toNat = t.fbIdx.toNat + 1 := hu.grew.fbIdx
    rw [← hu.grew.fbLen] at hfit hlen
    obtain ⟨v, hv⟩ := ih hu.between (by omega) hlen
    exact ⟨v, (ht.append hu).append hv⟩

end Receive

/-- Settles O35: the sub-frames fill the frame (`assembles_frameBits`), and what follows finds it complete
(`assembles_dropped`). -/
theorem frameIsAssembledInOrder : Obligations.FrameIsAssembledInOrder := by
  intro s items extra hen hst hib hidx hsub hlen hmax
  have hzero : s.fbIdx.toNat = 0 := by rw [hidx]; rfl
  obtain ⟨t, ht⟩ := assembles_frameBits items ⟨hen, hst, hib, hsub⟩ (by omega) (by omega)
  have hfull : t.fbIdx.toNat = t.fbLen.toNat := by
    rw [ht.grew.fbIdx, ht.grew.fbLen, hzero, hlen, List.length_map, Nat.zero_add]
  obtain ⟨u, hu⟩ := assembles_dropped extra ht.between fun hlt => absurd hfull hlt.ne
  obtain ⟨hreceived, hbetween, hgrew⟩ := ht.append hu
  have hcomplete : u.fbIdx = u.fbLen := by
    rw [hu.grew.fbLen]
    exact BitVec.eq_of_toNat_eq (hu.grew.fbIdx.trans hfull)
  have hstored := hgrew.stored
  have hothers := hgrew.others
  simp only [List.append_nil, List.length_map, List.getElem_map, hzero, Nat.zero_add] at hstored hothers
  exact ⟨u, hreceived, by simp [frameComplete, hbetween.fcEn, hcomplete], hbetween.ib, hbetween.fcState, hgrew.ftoCnt,
    hstored, fun a ha => hothers a (.inr ha)⟩

end Sys2Proof.Machine
end

section
/-! The FrameCodec commands (45_framecodec_cmds.md): what BEGIN and FBREAD do for each range of their operand, and the
answers of the queries. -/

namespace Sys2Proof.Machine

/-! ## BEGIN -/

theorem execBegin_binds {len : Nat} (hpos : 1 ≤ len) (hmax : len ≤ 256) (s : State) :
    execBegin len s = .next (respond .ok 0 { s with
      fcEn := true, fbLen := lenOperand len, fbIdx := 0, inSub := false, bitcnt := 0, acc := 0
      fcState := .waitFrameStart }) :=
  if_neg (not_or.2 ⟨Nat.one_le_iff_ne_zero.1 hpos, hmax.not_gt⟩)

theorem execBegin_refused {len : Nat} (h : len = 0 ∨ 256 < len) (s : State) :
    execBegin len s = .next (respond .badarg 0 s) := if_pos h

/-- Settles O25: a length within the frame buffer is its operand as a number, any other is refused. -/
theorem beginBindsALengthOrRefuses : Obligations.BeginBindsALengthOrRefuses := by
  refine fun s len => ⟨fun ⟨hpos, hmax⟩ => ?_, fun hout => ?_⟩
  · exact ⟨_, execBegin_binds hpos hmax s, lenOperand_toNat len hmax, rfl, fun _ => rfl⟩
  · exact ⟨_, execBegin_refused hout s, rfl, fun _ => rfl⟩

/-! ## FBREAD -/

section Fbread

variable {s : State} {idx : Nat}

theorem execFbread_outside (h : s.fbLen.toNat ≤ idx) : execFbread idx s = .next (respond .badarg 0 s) := if_pos h

theorem execFbread_inside (hlen : idx < s.fbLen.toNat) (hmax : idx < 256) :
    execFbread idx s = .next (respond .ok (byteWord (s.fbByte idx)) s) :=
  (if_neg hlen.not_ge).trans (if_pos hmax)

theorem execFbread_noSuchByte (hlen : idx < s.fbLen.toNat) (hmax : 256 ≤ idx) :
    execFbread idx s = .fault .noSuchByte :=
  (if_neg hlen.not_ge).trans (if_neg hmax.not_gt)

end Fbread

/-- Settles O26: inside the bound frame, outside it, and inside it but beyond the frame buffer. -/
theorem fbreadAnswersTheByteOrRefuses : Obligations.FbreadAnswersTheByteOrRefuses := by
  refine fun s idx => ⟨fun ⟨hlen, hmax⟩ => ?_, fun hout => ?_, fun ⟨hmax, hlen⟩ => execFbread_noSuchByte hlen hmax⟩
  · exact ⟨_, execFbread_inside hlen hmax, rfl, fun _ => rfl⟩
  · exact ⟨_, execFbread_outside hout, rfl, fun _ => rfl⟩

/-! ## FCOMPLETE, FTODET, FTOCNT -/

/-- The answer of FCOMPLETE (R202). -/
theorem bitWord_frameComplete (s : State) :
    bitWord (frameComplete s) = if s.fcEn = true ∧ s.fbIdx = s.fbLen then 1 else 0 := by
  simp only [bitWord_eq, frameComplete, Bool.and_eq_true, decide_eq_true_eq]

/-- The answer of FTODET (R206). -/
theorem bitWord_timeoutDetected (s : State) : bitWord (timeoutDetected s) = if s.ftoCnt ≠ 0 then 1 else 0 :=
  bitWord_decide (s.ftoCnt ≠ 0)

/-- The count is as wide as `resp_data` (R207). -/
theorem countWord_eq (c : FtoCount) : countWord c = c := BitVec.setWidth_eq c

/-- Settles O27: each query only answers, and its answer is a condition as a bit or the count itself. -/
theorem frameQueriesAnswerAndChangeNothing : Obligations.FrameQueriesAnswerAndChangeNothing := by
  intro s
  rw [← bitWord_frameComplete, ← bitWord_timeoutDetected]
  refine ⟨⟨_, rfl, rfl, fun _ => rfl⟩, ⟨_, rfl, rfl, fun _ => rfl⟩, respond .ok (countWord s.ftoCnt) s, rfl, ?_,
    fun _ => rfl⟩
  rw [countWord_eq]
  rfl

end Sys2Proof.Machine
end

section
/-! Reset and the host port's latencies (70_reset_and_hazards.md): what reset leaves, the first frame-end flag after it,
and a queued bit that is sent in its own tick. -/

namespace Sys2Proof.Machine

/-! ## What reset leaves -/

/-- Settles O12: the reset values of R251 as `resetWith` lists them; a queue of occupancy 0 holds no bit. -/
theorem resetLeavesIdleChannelAndCodecOff : Obligations.ResetLeavesIdleChannelAndCodecOff :=
  ⟨rfl, rfl, rfl, rfl, rfl, rfl, rfl, rfl, rfl, rfl, rfl, rfl, rfl, rfl, rfl, rfl, rfl, rfl, rfl, rfl, rfl, rfl⟩

/-! ## The first frame-end -/

/-- A tick without a command, in Idle with nothing to start, no pulse and no buffer bound, times the idle timeout
(R103, R137). -/
theorem tick_lineInput_idle (p : Params) {rx : Bool} {s : State} (hrise : rx = true → s.rxQ = true)
    (hcnt : s.pulseCnt = 0) (hst : s.chState = .idle) (hedge : s.edgeFlag = false) (hob : s.ob.contents = [])
    (hoff : s.fcEn = false) :
    tick p (lineInput rx) s = .next { s with
      rxQ := rx, pulseBusy := false, respCode := .ok, respData := 0
      frameEnd := if s.idleTo.toNat ≤ elapsedNat s then true else s.frameEnd, now := s.now + 1 } := by
  rw [tick_eq p _ s rfl, commandPhase_none _ _ rfl, andThen_next, lineInput, beforeCommand_quiet hrise hcnt]
  exact afterCommand_idle p rfl hcnt hst hedge (fun hinit => hinit.2.1 hob) hoff

/-- The state `n` ticks after reset on a quiet line and without a command: `rx_q` has come down from its reset value 1,
and `frame_end` is set once a tick has seen `idle_to` elapsed, which tick `idle_to` is the first to do (R253). -/
def quietSinceReset (p : Params) (n : Nat) : State :=
  { State.resetWith p with
    rxQ := decide (n = 0), frameEnd := decide (p.idleToReset.toNat < n), now := BitVec.ofNat Config.timeWidth n }

theorem quietSinceReset_zero (p : Params) : quietSinceReset p 0 = State.resetWith p := by
  simp [quietSinceReset, State.resetWith]

theorem quietSinceReset_frameEnd (p : Params) (n : Nat) :
    (quietSinceReset p n).frameEnd = decide (p.idleToReset.toNat < n) := rfl

/-- While `now` has not wrapped it counts the ticks since reset (R107). -/
theorem quietSinceReset_now {p : Params} {n : Nat} (h : n < 2 ^ 32) : (quietSinceReset p n).now.toNat = n :=
  Nat.mod_eq_of_lt h

/-- With `t_last` = 0 since reset the time elapsed is `now` (R9). -/
theorem quietSinceReset_elapsedNat {p : Params} {n : Nat} (h : n < 2 ^ 32) : elapsedNat (quietSinceReset p n) = n := by
  have hlast : (quietSinceReset p n).tLast.toNat = 0 := rfl
  rw [elapsedNat, quietSinceReset_now h, hlast]
  omega

/-- The flag after tick `n`: the comparison decides it up to tick `idle_to`, and then it is already set, so that a wrap
of `now` is harmless (R137, R272). -/
theorem quietSinceReset_frameEnd_succ (p : Params) (n : Nat) :
    (if p.idleToReset.toNat ≤ elapsedNat (quietSinceReset p n) then true else (quietSinceReset p n).frameEnd)
      = (quietSinceReset p (n + 1)).frameEnd := by
  rw [quietSinceReset_frameEnd, quietSinceReset_frameEnd]
  by_cases hset : p.idleToReset.toNat < n
  · rw [decide_eq_true hset, decide_eq_true (hset.trans n.lt_succ_self), ite_self]
  · have hbound : n < 2 ^ 32 := (Nat.le_of_not_lt hset).trans_lt p.idleToReset.toNat_lt
    simp [quietSinceReset_elapsedNat hbound, hset]

theorem tick_quietSinceReset (p : Params) (n : Nat) :
    tick p (lineInput false) (quietSinceReset p n) = .next (quietSinceReset p (n + 1)) := by
  have htick := tick_lineInput_idle p (s := quietSinceReset p n) (rx := false) (fun h => nomatch h) rfl rfl rfl rfl rfl
  have hnow : (quietSinceReset p n).now + 1 = (quietSinceReset p (n + 1)).now := (BitVec.ofNat_add n 1).symm
  have hidle : (quietSinceReset p n).idleTo = p.idleToReset := rfl
  rw [hidle, quietSinceReset_frameEnd_succ, hnow] at htick
  exact htick

theorem ticks_quietSinceReset (p : Params) (n m : Nat) :
    ticks p (List.replicate n (lineInput false)) (quietSinceReset p m) = .next (quietSinceReset p (m + n)) := by
  induction n generalizing m with
  | zero => rfl
  | succ n ih =>
    rw [List.replicate_succ, ticks_cons, tick_quietSinceReset, andThen_next, ih, Nat.add_right_comm, Nat.add_assoc]

theorem ticks_quiet_of_reset (p : Params) (n : Nat) :
    ticks p (List.replicate n (lineInput false)) (State.resetWith p) = .next (quietSinceReset p n) := by
  rw [← quietSinceReset_zero, ticks_quietSinceReset, Nat.zero_add]

/-- Settles O13: `ticks_quiet_of_reset` gives the state after any number of quiet ticks. -/
theorem firstFrameEndAfterIdleTimeout : Obligations.FirstFrameEndAfterIdleTimeout := by
  refine fun p => ⟨fun n hn => ⟨_, ticks_quiet_of_reset p n, ?_, rfl, ?_⟩, _, ticks_quiet_of_reset p _, ?_, rfl⟩
  · rw [quietSinceReset_frameEnd, decide_eq_false hn.not_gt]
  · exact quietSinceReset_now (hn.trans_lt p.idleToReset.toNat_lt)
  · rw [quietSinceReset_frameEnd, decide_eq_true (Nat.lt_succ_self _)]

/-! ## A bit that is sent in its own tick -/

/-- On an empty queue SENDBIT queues its bit and answers OK (R127, R161). -/
theorem enqueue_singleton_of_empty (b : Bool) {s : State} (h : s.ob.contents = []) :
    ∃ f : BitFifo, f.contents = [b] ∧ enqueue [b] s = { s with ob := f, respCode := .ok, respData := 0 } := by
  have hcnt : s.ob.cnt.toNat ≤ 64 := by rw [← BitFifo.contents_length, h]; exact Nat.zero_le 64
  obtain ⟨hbits, hcode, hframe, -⟩ := enqueue_answer [b] hcnt
  rw [h] at hbits hcode
  rw [hcode] at hframe
  exact ⟨_, hbits, hframe⟩

/-- In an idle initiator with the flag set and a bit queued, no pulse and no buffer bound, phases 4 to 6 start the
cell of the oldest bit and advance `now` (R107, R136, R180). -/
theorem afterCommand_initiates {p : Params} {s : State} {b : Bool} {bs : List Bool} (hp : p.legal = true)
    (hbusy : s.pulseBusy = false) (hcnt : s.pulseCnt = 0) (hst : s.chState = .idle) (hedge : s.edgeFlag = false)
    (hcan : s.canInit = true) (hend : s.frameEnd = true) (hob : s.ob.contents = b :: bs) (hoff : s.fcEn = false) :
    ∃ f : BitFifo, f.contents = bs ∧ afterCommand p s = .next { s with
      ob := f, tx := true, pulseCnt := p.writePulse, pulseFinal := b, selfInit := true, frameEnd := false
      tLast := s.now, chState := .awaitAck, now := s.now + 1 } := by
  obtain ⟨t, hchan, hrest, ht⟩ := idleInitiatesWithACell p s b bs hp hbusy hcnt hst hedge hcan hend hob
  have hcodec : codecPhase t = .next t := codecPhase_off (by rw [ht]; exact hoff)
  refine ⟨t.ob, hrest, ?_⟩
  rw [afterCommand, hchan, hcodec, andThen_next, ht, timePhase]

/-- Settles O56: phase 3 queues the bit (`enqueue_singleton_of_empty`), and phase 4 of the same tick pulls it into a
cell (`afterCommand_initiates`). -/
theorem sendbitStartsItsCellInTheSameTick : Obligations.SendbitStartsItsCellInTheSameTick := by
  intro p s b rx hp hst hedge hrise hcnt hcan hend hob hoff
  have htick := tick_commandInput (c := .sendbit b) p rx s rfl rfl
  rw [beforeCommand_quiet hrise hcnt, exec, execSendbit, andThen_next] at htick
  obtain ⟨q, hq, hqueued⟩ := enqueue_singleton_of_empty b (s := { s with rxQ := rx, pulseBusy := false }) hob
  rw [hqueued] at htick
  obtain ⟨f, hf, hafter⟩ := afterCommand_initiates
    (s := { s with ob := q, rxQ := rx, pulseBusy := false, respCode := .ok, respData := 0 })
    hp rfl hcnt hst hedge hcan hend hq hoff
  exact ⟨_, htick.trans hafter, hf, rfl⟩

end Sys2Proof.Machine
end
